-- ==== Sys2Proof/Word.lean ====
section
/-! DEFINITION. The machine's word and byte (spec R7, R10): 16-bit registers and addresses, 8-bit PS and memory bytes,
all arithmetic on them modulo their width. -/

namespace Sys2Proof

/-- A 16-bit register value, address or operand (R7). -/
abbrev Word := BitVec 16

/-- A byte of memory, of an instruction, or PS (R7). -/
abbrev Byte := BitVec 8

end Sys2Proof
end

