-- ==== Sys2Proof/Machine/Bits.lean ====
section
/-! DEFINITION. Byte order, extension and field helpers (spec R9, R10, R51, R52, R54). -/

namespace Sys2Proof.Machine

/-- `v[7:0]`, the byte stored at the lower address (R52). -/
def loByte (v : Word) : Byte := v.extractLsb' 0 8

/-- `v[15:8]`, the byte stored at the higher address (R52). -/
def hiByte (v : Word) : Byte := v.extractLsb' 8 8

/-- `lo + 256 * hi`: little-endian (R51, R54). -/
def joinBytes (lo hi : Byte) : Word := hi ++ lo

/-- `zext_8` (R10). -/
def zext8 (b : Byte) : Word := b.setWidth 16

/-- `sext_8` (R10). -/
def sext8 (b : Byte) : Word := b.signExtend 16

/-- The number of a table word's byte in position `n` from its least significant byte. -/
def byteOfNat (w n : Nat) : Byte := BitVec.ofNat 8 (w / 256 ^ n)

end Sys2Proof.Machine
end

