-- ==== Sys2Proof/Config.lean ====
section
/-! DEFINITION. What an implementation fixes and the spec leaves open (R8, R16): the parameters that stay fixed during
a run, and the free values, which are constants WITHOUT a body, so that nothing can be proved of what they are. -/

namespace Sys2Proof

/-- Why a byte is read: to fetch an instruction or as data (R57). Two reads of one address in one instruction are
two draws. -/
inductive Access where
  | fetch
  | data
deriving DecidableEq, Repr

/-- The places where a whole word is `ANY16` (R16; 93_implementation_defined.md section 1). -/
inductive FreeWordSite where
  /-- R0 after MULS (R222). -/
  | mulsR0
  /-- R2 after the overflowing DIVS (R231). -/
  | divsQuotient
  /-- R3 after the overflowing DIVS (R231). -/
  | divsRemainder
  /-- R0 after SQRT of a value with bit 15 set (R227). -/
  | sqrtRoot
  /-- R1 after SQRT of a value with bit 15 set (R227). -/
  | sqrtError
  /-- RA after an xxR form whose count field is 10000 (R184). -/
  | shNeg16
  /-- the weight of a left movement (R184). -/
  | wtLeft
deriving DecidableEq, Repr

/-- The places where one bit is `ANY1` (R16; 93_implementation_defined.md section 1). -/
inductive FreeBitSite where
  | shNeg16N
  | shNeg16Z
  | shNeg16V
  | shNeg16X
  | shNeg16C
  /-- whether a hazardous opcode fetch sees the byte prefetched before the store (R283). -/
  | prefetchOld
deriving DecidableEq, Repr

/-- `RESET_PC` (R8, R270). PRESUMED: the spec gives only a hint (log 4). Unsafe. -/
def Config.resetPc : Word := 0x0000#16

/-- `DIVZERO_VECTOR` (R8, R243): an open parameter (log 13). Safe: no value is chosen. -/
opaque Config.divZeroVector : Word

/-- `EXTINT_VECTOR` (R8, R245): an open parameter (log 12). Safe: no value is chosen. -/
opaque Config.extIntVector : Word

/-- `DIVZERO_PS` (R8, R243): whether N, Z, V, X and C are cleared before a zero divide stacks PS. An open parameter
(log 14). Safe: no value is chosen. -/
opaque Config.divZeroClearsFlags : Bool

/-- `ANY16` (R16): a free word for each draw epoch and place. Safe. -/
opaque Config.freeWord : Nat → FreeWordSite → Word

/-- `ANY1` (R16): a free bit for each draw epoch and place. Safe. -/
opaque Config.freeBit : Nat → FreeBitSite → Bool

/-- `ANY8` (R50): what a read of an absent address yields, anew for each epoch, kind of access and address. Safe. -/
opaque Config.absentByte : Nat → Access → Word → Byte

/-- Whatever a device answers to a read (R50): free for each epoch, kind of access and address. Safe (log 7). -/
opaque Config.deviceByte : Nat → Access → Word → Byte

end Sys2Proof
end

