-- ==== Sys2Proof/Syntax.lean ====
section
/-! DEFINITION. The instructions: one constructor for each of the 105 rows of the opcode table, with its operands as
decoded (spec R81, R84 to R93, R100). -/

namespace Sys2Proof

/-- A general register, R0 to R3 (R20). -/
inductive Reg where
  | r0
  | r1
  | r2
  | r3
deriving DecidableEq, Repr

/-- RC: the data register of the indirect and post-increment transfers, R0 or R1 (R21, R82). -/
inductive DataReg where
  | r0
  | r1
deriving DecidableEq, Repr

/-- RI: the address register of the indirect and post-increment transfers, R2 or R3 (R21, R82). -/
inductive IndexReg where
  | r2
  | r3
deriving DecidableEq, Repr

/-- The four constants of ADDQ, in the order of their codes 00, 01, 10, 11 (R85, R122). -/
inductive Small where
  | plus2
  | plus1
  | minus2
  | minus1
deriving DecidableEq, Repr

/-- The condition of a branch, in the order of its codes 0 to 15 (R90, R201). -/
inductive Cond where
  | uc
  | us
  | hi
  | ls
  | cc
  | cs
  | ne
  | eq
  | vc
  | vs
  | pl
  | mi
  | ge
  | lt
  | gt
  | le
deriving DecidableEq, Repr

/-- The four kinds of movement of the shift group, in the order of their codes fn (R89, R170). -/
inductive ShiftFn where
  | logical
  | arithmetic
  | rotate
  | rotateX
deriving DecidableEq, Repr

/-- An instruction (R92; the rows of opcode_table.json in order). -/
inductive Instr where
  /-- MOVE RA,RB (R111) -/
  | move (ra : Reg) (rb : Reg)
  /-- SXT RA (R112) -/
  | sxt (ra : Reg)
  /-- AND RA,RB (R113) -/
  | and (ra : Reg) (rb : Reg)
  /-- TEST RA (R114) -/
  | test (ra : Reg)
  /-- XOR RA,RB with RA != RB (R115) -/
  | xor (ra : Reg) (rb : Reg)
  /-- CLR RA, that is XOR RA,RA (R115) -/
  | clr (ra : Reg)
  /-- OR RA,RB (R116) -/
  | or (ra : Reg) (rb : Reg)
  /-- INV RA (R117) -/
  | inv (ra : Reg)
  /-- ADD RA,RB; RA = RB doubles the register (R121) -/
  | add (ra : Reg) (rb : Reg)
  /-- ADDQ RA,#small (R122) -/
  | addq (ra : Reg) (q : Small)
  /-- SUB RA,RB (R123) -/
  | sub (ra : Reg) (rb : Reg)
  /-- NEG RA (R124) -/
  | neg (ra : Reg)
  /-- CMP RA,RB (R125) -/
  | cmp (ra : Reg) (rb : Reg)
  /-- ABS RA (R128) -/
  | abs (ra : Reg)
  /-- LD.W RC,(RI) (R141) -/
  | ldwInd (rc : DataReg) (ri : IndexReg)
  /-- LD.B RC,(RI) (R142) -/
  | ldbInd (rc : DataReg) (ri : IndexReg)
  /-- ST.W (RI),RC (R143) -/
  | stwInd (rc : DataReg) (ri : IndexReg)
  /-- ST.B (RI),RC (R144) -/
  | stbInd (rc : DataReg) (ri : IndexReg)
  /-- LD.W RC,(RI++) (R145) -/
  | ldwInc (rc : DataReg) (ri : IndexReg)
  /-- LD.B RC,(RI++) (R146) -/
  | ldbInc (rc : DataReg) (ri : IndexReg)
  /-- ST.W (RI++),RC (R147) -/
  | stwInc (rc : DataReg) (ri : IndexReg)
  /-- ST.B (RI++),RC (R148) -/
  | stbInc (rc : DataReg) (ri : IndexReg)
  /-- LD.W RA,(SP,m) (R149) -/
  | ldwSp (ra : Reg) (m : Byte)
  /-- LD.B RA,(SP,m) (R150) -/
  | ldbSp (ra : Reg) (m : Byte)
  /-- ST.W (SP,m),RA (R151) -/
  | stwSp (ra : Reg) (m : Byte)
  /-- ST.B (SP,m),RA (R152) -/
  | stbSp (ra : Reg) (m : Byte)
  /-- LD.W RA,address (R153) -/
  | ldwAbs (ra : Reg) (addr : Word)
  /-- LD.B RA,address (R154) -/
  | ldbAbs (ra : Reg) (addr : Word)
  /-- ST.W address,RA (R155) -/
  | stwAbs (ra : Reg) (addr : Word)
  /-- ST.B address,RA (R156) -/
  | stbAbs (ra : Reg) (addr : Word)
  /-- POP RA (R162) -/
  | popReg (ra : Reg)
  /-- POP PS (R164) -/
  | popPs
  /-- NOP, the second encoding 0xC5 (R211) -/
  | nopC5
  /-- RET (R207) -/
  | ret
  /-- RETI (R208) -/
  | reti
  /-- PUSH RA (R161) -/
  | pushReg (ra : Reg)
  /-- PUSH PS (R163) -/
  | pushPs
  /-- TRAP; the #n of the assembler is not encoded (R209) -/
  | trap
  /-- JSR (R0) (R205) -/
  | jsrR0
  /-- JSR address (R206) -/
  | jsrAbs (addr : Word)
  /-- LD.W RA,#imm16 (R157) -/
  | ldwImm (ra : Reg) (imm : Word)
  /-- LD.B RA,#imm8 (R158) -/
  | ldbImm (ra : Reg) (imm : Byte)
  /-- LSL RA,#n, n the signed 5-bit count field (R175) -/
  | lslImm (ra : Reg) (n : BitVec 5)
  /-- LSL RA,Rp (R175) -/
  | lslReg (ra : Reg) (rp : Reg)
  /-- LSR RA,Rp (R176) -/
  | lsrReg (ra : Reg) (rp : Reg)
  /-- LSL.WT RA,Rp (R183) -/
  | lslWt (ra : Reg) (rp : Reg)
  /-- LSR.WT RA,Rp (R183) -/
  | lsrWt (ra : Reg) (rp : Reg)
  /-- ASL RA,#n, n the signed 5-bit count field (R177) -/
  | aslImm (ra : Reg) (n : BitVec 5)
  /-- ASL RA,Rp (R177) -/
  | aslReg (ra : Reg) (rp : Reg)
  /-- ASR RA,Rp (R178) -/
  | asrReg (ra : Reg) (rp : Reg)
  /-- ASL.WT RA,Rp (R183) -/
  | aslWt (ra : Reg) (rp : Reg)
  /-- ASR.WT RA,Rp (R183) -/
  | asrWt (ra : Reg) (rp : Reg)
  /-- ROL RA,#n, n the signed 5-bit count field (R179) -/
  | rolImm (ra : Reg) (n : BitVec 5)
  /-- ROL RA,Rp (R179) -/
  | rolReg (ra : Reg) (rp : Reg)
  /-- ROR RA,Rp (R180) -/
  | rorReg (ra : Reg) (rp : Reg)
  /-- ROL.WT RA,Rp (R183) -/
  | rolWt (ra : Reg) (rp : Reg)
  /-- ROR.WT RA,Rp (R183) -/
  | rorWt (ra : Reg) (rp : Reg)
  /-- ROXL RA,#n, n the signed 5-bit count field (R181) -/
  | roxlImm (ra : Reg) (n : BitVec 5)
  /-- ROXL RA,Rp (R181) -/
  | roxlReg (ra : Reg) (rp : Reg)
  /-- ROXR RA,Rp (R182) -/
  | roxrReg (ra : Reg) (rp : Reg)
  /-- ROXL.WT RA,Rp (R183) -/
  | roxlWt (ra : Reg) (rp : Reg)
  /-- ROXR.WT RA,Rp (R183) -/
  | roxrWt (ra : Reg) (rp : Reg)
  /-- `SH_RESERVED`: shift group, register form with b1[2] = 1 (R94, R184) -/
  | shReserved (ra : Reg) (fn : BitVec 2) (lr : BitVec 1) (w : BitVec 1) (rp : Reg)
  /-- BTST RA,#bit (R188) -/
  | btstImm (ra : Reg) (k : BitVec 4)
  /-- BTST RA,Rp (R188) -/
  | btstReg (ra : Reg) (rp : Reg)
  /-- BCHG RA,#bit (R189) -/
  | bchgImm (ra : Reg) (k : BitVec 4)
  /-- BCHG RA,Rp (R189) -/
  | bchgReg (ra : Reg) (rp : Reg)
  /-- BCLR RA,#bit (R190) -/
  | bclrImm (ra : Reg) (k : BitVec 4)
  /-- BCLR RA,Rp (R190) -/
  | bclrReg (ra : Reg) (rp : Reg)
  /-- BSET RA,#bit (R191) -/
  | bsetImm (ra : Reg) (k : BitVec 4)
  /-- BSET RA,Rp (R191) -/
  | bsetReg (ra : Reg) (rp : Reg)
  /-- `BIT_IMM_RESERVED`: bit group, immediate form with b1[4] = 1 (R94, R192) -/
  | bitImmReserved (ra : Reg) (fn : BitVec 2) (k : BitVec 4)
  /-- `BIT_REG_RESERVED`: bit group, register form with b1[4:2] != 000 (R94, R192) -/
  | bitRegReserved (ra : Reg) (fn : BitVec 2) (zero : BitVec 3) (rp : Reg)
  /-- BUC target, d the signed displacement (R300) -/
  | buc (d : Byte)
  /-- BUS target, d the signed displacement (R301) -/
  | bus (d : Byte)
  /-- BHI target, d the signed displacement (R302) -/
  | bhi (d : Byte)
  /-- BLS target, d the signed displacement (R303) -/
  | bls (d : Byte)
  /-- BCC target, d the signed displacement (R304) -/
  | bcc (d : Byte)
  /-- BCS target, d the signed displacement (R305) -/
  | bcs (d : Byte)
  /-- BNE target, d the signed displacement (R306) -/
  | bne (d : Byte)
  /-- BEQ target, d the signed displacement (R307) -/
  | beq (d : Byte)
  /-- BVC target, d the signed displacement (R308) -/
  | bvc (d : Byte)
  /-- BVS target, d the signed displacement (R309) -/
  | bvs (d : Byte)
  /-- BPL target, d the signed displacement (R310) -/
  | bpl (d : Byte)
  /-- BMI target, d the signed displacement (R311) -/
  | bmi (d : Byte)
  /-- BGE target, d the signed displacement (R312) -/
  | bge (d : Byte)
  /-- BLT target, d the signed displacement (R313) -/
  | blt (d : Byte)
  /-- BGT target, d the signed displacement (R314) -/
  | bgt (d : Byte)
  /-- BLE target, d the signed displacement (R315) -/
  | ble (d : Byte)
  /-- MOVE R0,SP (R165) -/
  | moveR0Sp
  /-- MOVE SP,R0 (R166) -/
  | moveSpR0
  /-- JMP (R0) (R203) -/
  | jmpR0
  /-- JMP address (R204) -/
  | jmpAbs (addr : Word)
  /-- AND PS,#imm8 (R228) -/
  | andPs (imm : Byte)
  /-- OR PS,#imm8 (R229) -/
  | orPs (imm : Byte)
  /-- ADD SP,#imm8, sign-extended (R167) -/
  | addSp (imm : Byte)
  /-- SQRT (R227) -/
  | sqrt
  /-- MULU (R221) -/
  | mulu
  /-- MULS (R222) -/
  | muls
  /-- DIVU (R224) -/
  | divu
  /-- DIVS (R225) -/
  | divs
  /-- ADDX R0,R1 (R130) -/
  | addx
  /-- SUBX R0,R1 (R126) -/
  | subx
  /-- NEGX R0 (R127) -/
  | negx
  /-- NOP (R210) -/
  | nop
deriving DecidableEq, Repr

end Sys2Proof
end

