-- ==== Sys2Proof/Machine/State.lean ====
section
/-! DEFINITION. The machine's state as plain data: everything the spec gives the machine (R11, R20 to R40), what the
platform presents to it (R245, R271), and one counter of the model's own. INVENTORY.md lists every field. -/

namespace Sys2Proof.Machine

/-- What a byte address is (`MemMap`, R58). -/
inductive Region where
  | ram
  | rom
  | device
  | absent
deriving DecidableEq, Repr

/-- One entry of the memory map: the addresses from `base` on, `size` of them, are of this kind (R58). -/
structure MapEntry where
  base : Nat
  size : Nat
  kind : Region
deriving DecidableEq, Repr

/-- The contents of memory: (address, byte) pairs in the canonical form of `Memory.wf` (R38). -/
abbrev Memory := List Host.Cell

/-- The eight flags of PS, in bit order (R26). -/
inductive Flag where
  /-- interrupt flag (R27) -/
  | i
  /-- negative (R28) -/
  | n
  /-- zero (R29) -/
  | z
  /-- overflow (R30) -/
  | v
  /-- extend (R31) -/
  | x
  /-- carry (R32) -/
  | c
  /-- division mode (R33) -/
  | d
  /-- user flag (R34) -/
  | u
deriving DecidableEq, Repr

/-- `RESET_STATE` (R8): the registers that a reset leaves unspecified, as the platform's reset happens to leave them. -/
structure ResetState where
  r0 : Word
  r1 : Word
  r2 : Word
  r3 : Word
  sp : Word
  ps : Byte
deriving DecidableEq, Repr

/-- What the platform presents at one instruction boundary (R240, R245, R271). -/
inductive BoundaryInput where
  /-- no request and no reset -/
  | quiet
  /-- the external interrupt request is asserted (R245) -/
  | irq
  /-- a reset (R271), with the registers it leaves and the bytes the host loads at it (R270) -/
  | reset (regs : ResetState) (load : List (Word × Byte))
deriving DecidableEq, Repr

/-- What a device address received (R286). A word store that falls on two device addresses is ONE entry, because the
order of its two byte transfers is unspecified (R60). -/
inductive DeviceWrite where
  | byte (a : Word) (v : Byte)
  | word (a : Word) (v : Word)
deriving DecidableEq, Repr

/-- The state of the machine. -/
structure State where
  /-- R0 (R20) -/
  r0 : Word
  /-- R1 (R20) -/
  r1 : Word
  /-- R2 (R20) -/
  r2 : Word
  /-- R3 (R20) -/
  r3 : Word
  /-- the stack pointer (R22) -/
  sp : Word
  /-- the address of the first byte of the next instruction (R23) -/
  pc : Word
  /-- the processor status byte (R25, R26) -/
  ps : Byte
  /-- the contents of ram and rom (R38, R50) -/
  mem : Memory
  /-- `MemMap` (R58): no step changes it; an address that no entry covers is ram (log 6) -/
  map : List MapEntry
  /-- what the platform presents at the coming boundaries, the next one first; after the last, nothing (R245, R271) -/
  inputs : List BoundaryInput
  /-- the opcode byte fetched before a store that then changed it in memory, if the next opcode fetch may still see
  it (R39, R283) -/
  prefetch : Option Byte
  /-- what device addresses have received, oldest first (R286) -/
  devOut : List DeviceWrite
  /-- the model's own: the draw epoch of the free values (R16, log 22) -/
  epoch : Nat
deriving DecidableEq, Repr

/-- Why the machine stops with a fault: it never does. The spec describes no fault that stops the machine (R240, R251):
traps are entered, not faults. Safe: there is no constructor to raise. -/
inductive Fault where
deriving DecidableEq, Repr

/-- Why an instruction has no step. -/
inductive Refusal where
  /-- An arm of `exec` that has no meaning yet. Raised by no arm of this model. Safe. -/
  | notModelled (mnemonic : String)
  /-- `SH_RESERVED` (R94, R184): raised by the shift group's register form with b1[2] = 1. The spec refuses it (D14).
  Safe: nothing is claimed of what the hardware does. -/
  | shReserved
  /-- `BIT_IMM_RESERVED` (R94, R192): raised by the bit group's immediate form with b1[4] = 1. Refused by the spec (D14).
  Safe. -/
  | bitImmReserved
  /-- `BIT_REG_RESERVED` (R94, R192): raised by the bit group's register form with b1[4:2] != 000. Refused by the spec
  (D14). Safe. -/
  | bitRegReserved
deriving DecidableEq, Repr

/-- The outcome of an instruction or of a step. -/
abbrev Result := Host.Outcome State Fault Refusal

/-- The machine right after reset (R40, R270). DESIGN CHOICE: the spec gives R0 to R3, SP and PS no value (logs 1 to 3);
PRESUMED: the pc (log 4). Unsafe: a claim that rests on these values says less of the hardware. -/
def State.reset : State where
  r0 := 0x0000#16
  r1 := 0x0000#16
  r2 := 0x0000#16
  r3 := 0x0000#16
  sp := 0x0000#16
  pc := Config.resetPc
  ps := 0x00#8
  mem := []
  map := []
  inputs := []
  prefetch := none
  devOut := []
  epoch := 0

end Sys2Proof.Machine
end

