-- ==== Sys2Proof/Machine/Flags.lean ====
section
/-! DEFINITION. PS and every flag computation the spec gives (R14, R26 to R35, R159, R172, R183, R187). Each function takes
PS and answers PS with the named flags rewritten; the others are kept. -/

namespace Sys2Proof.Machine

/-- The bit of PS that holds a flag (R26). -/
def Flag.bit : Flag → Nat
  | .i => 0
  | .n => 1
  | .z => 2
  | .v => 3
  | .x => 4
  | .c => 5
  | .d => 6
  | .u => 7

/-- The mask of a flag in PS (R26). -/
def Flag.mask (f : Flag) : Byte := 1#8 <<< f.bit

/-- One flag of a PS byte. -/
def PS.get (ps : Byte) (f : Flag) : Bool := ps.getLsbD f.bit

/-- A PS byte with one flag written. -/
def PS.put (ps : Byte) (f : Flag) (b : Bool) : Byte := if b then ps ||| f.mask else ps &&& ~~~f.mask

/-- `SetNZ` (R14). -/
def PS.setNZ (ps : Byte) (v : Word) : Byte := PS.put (PS.put ps .n v.msb) .z (v == 0#16)

/-- `LogicFlags` (R14): N and Z from the value, V and C cleared. -/
def PS.logic (ps : Byte) (v : Word) : Byte := PS.put (PS.put (PS.setNZ ps v) .v false) .c false

/-- `ClearArith` (R14): N, Z, V, X and C cleared. -/
def PS.clearArith (ps : Byte) : Byte :=
  PS.put (PS.put (PS.put (PS.put (PS.put ps .n false) .z false) .v false) .x false) .c false

/-- The result of an addition or subtraction: the value, the carry (or borrow) and the signed overflow (R14). -/
structure ArithResult where
  r : Word
  c : Bool
  v : Bool
deriving DecidableEq, Repr

/-- An exact signed value that 16 bits do not hold (R14, R30). -/
def outOfSignedRange (s : Int) : Bool := decide (s < -32768) || decide (s > 32767)

/-- `ADD16` (R14), on exact integers. -/
def add16 (a b : Word) (cin : Bool) : ArithResult where
  r := BitVec.ofNat 16 (a.toNat + b.toNat + cin.toNat)
  c := decide (a.toNat + b.toNat + cin.toNat ≥ 2 ^ 16)
  v := outOfSignedRange (a.toInt + b.toInt + (cin.toNat : Int))

/-- `SUB16` (R14), on exact integers: the carry is a borrow (R129). -/
def sub16 (a b : Word) (bin : Bool) : ArithResult where
  r := BitVec.ofInt 16 ((a.toNat : Int) - (b.toNat : Int) - (bin.toNat : Int))
  c := decide ((a.toNat : Int) - (b.toNat : Int) - (bin.toNat : Int) < 0)
  v := outOfSignedRange (a.toInt - b.toInt - (bin.toNat : Int))

/-- N, Z, V and C of a compare: X is not written (R125). -/
def PS.compare (ps : Byte) (t : ArithResult) : Byte := PS.put (PS.put (PS.setNZ ps t.r) .v t.v) .c t.c

/-- N, Z, V, C and X = C of an addition or subtraction (R121). -/
def PS.arith (ps : Byte) (t : ArithResult) : Byte := PS.put (PS.compare ps t) .x t.c

/-- N, V, C, X = C of the extended forms, with the sticky Z that is only ever cleared (R126). -/
def PS.extended (ps : Byte) (t : ArithResult) : Byte :=
  let ps1 := PS.put (PS.put (PS.put (PS.put ps .n t.r.msb) .v t.v) .c t.c) .x t.c
  if t.r = 0#16 then ps1 else PS.put ps1 .z false

/-- The flags of ABS of a register that is not negative: Z from it, N, V, C and X cleared (R128). -/
def PS.absNonNegative (ps : Byte) (v : Word) : Byte :=
  PS.put (PS.put (PS.put (PS.put (PS.put ps .n false) .z (v == 0#16)) .v false) .c false) .x false

/-- The flags of a shift or rotate by no place: N and Z from the register, V and C cleared, X kept (R172). -/
def PS.shiftZero (ps : Byte) (v : Word) : Byte := PS.logic ps v

/-- The flags of a shift or rotate by one place or more: N, Z, V, C, and X where the form writes it (R172, R174). -/
def PS.shift (ps : Byte) (v : Word) (overflow out writesX : Bool) : Byte :=
  let ps1 := PS.put (PS.put (PS.setNZ ps v) .v overflow) .c out
  if writesX then PS.put ps1 .x out else ps1

/-- The flags of the weight forms: Z from the weight, C its bit 0, N, V and X cleared (R183). -/
def PS.weight (ps : Byte) (w : Word) : Byte :=
  PS.put (PS.put (PS.put (PS.put (PS.put ps .n false) .v false) .x false) .z (w == 0#16)) .c (w.getLsbD 0)

/-- The flag of a bit operation: Z is the complement of the bit as it was (R187). -/
def PS.bitTest (ps : Byte) (t : Bool) : Byte := PS.put ps .z (!t)

end Sys2Proof.Machine
end

