-- ==== Sys2Proof/Machine/Memory.lean ====
section
/-! DEFINITION. The contents of memory, one byte at a time, kept in canonical form (spec R38, R50, R52). -/

namespace Sys2Proof.Machine

/-- What an unlisted address reads as. DESIGN CHOICE: the spec says only that memory is as the host loaded it (R40); the
value is that of the spec's own test vectors (95_test_vectors.md section 1.2). Unsafe (log 5). -/
def Memory.unlisted : Byte := 0x00#8

/-- The byte held at an address (R50). -/
def Memory.read : Memory → Nat → Byte
  | [], _ => Memory.unlisted
  | (k, b) :: rest, a => if k = a then b else Memory.read rest a

/-- The contents without an entry for the address: it then reads as an unlisted one. -/
def Memory.erase (m : Memory) (a : Nat) : Memory := m.filter (fun cell => cell.1 != a)

/-- The contents with one more entry, before the first of a greater address. -/
def Memory.insert : Memory → Nat → Byte → Memory
  | [], a, b => [(a, b)]
  | (k, c) :: rest, a, b => if a < k then (a, b) :: (k, c) :: rest else (k, c) :: Memory.insert rest a b

/-- The contents after a byte is stored (R52). Storing what an unlisted address reads as removes the entry, so that equal
memories are equal lists. -/
def Memory.write (m : Memory) (a : Nat) (b : Byte) : Memory :=
  if b = Memory.unlisted then Memory.erase m a else Memory.insert (Memory.erase m a) a b

/-- The canonical form: addresses strictly rising and below 2^16 (R38), and no entry equal to what an unlisted address
reads as. -/
abbrev Memory.wf (m : Memory) : Prop :=
  m.Pairwise (fun p q => p.1 < q.1) ∧ ∀ cell ∈ m, cell.1 < 65536 ∧ cell.2 ≠ Memory.unlisted

end Sys2Proof.Machine
end

