-- ==== Sys2Proof/Machine/Ops.lean ====
section
/-! DEFINITION. The named operations over registers, memory and the stack, and taking a trap and returning from one
(spec R11 to R13, R22, R24, R50 to R61, R160, R241, R249). -/

namespace Sys2Proof.Machine

/-! Registers: the one way each is read and written. -/

/-- `x[i]` (R11, R20). -/
def State.reg (s : State) (r : Reg) : Word :=
  match r with
  | .r0 => s.r0
  | .r1 => s.r1
  | .r2 => s.r2
  | .r3 => s.r3

/-- `x[i] <- v` (R11, R20). -/
def State.setReg (s : State) (r : Reg) (v : Word) : State :=
  match r with
  | .r0 => { s with r0 := v }
  | .r1 => { s with r1 := v }
  | .r2 => { s with r2 := v }
  | .r3 => { s with r3 := v }

/-- `SP <- v` (R22). -/
def State.setSp (s : State) (v : Word) : State := { s with sp := v }

/-- `pc <- v` (R24). -/
def State.setPc (s : State) (v : Word) : State := { s with pc := v }

/-- `PS <- v`, all eight bits (R25). -/
def State.setPs (s : State) (v : Byte) : State := { s with ps := v }

/-- The hidden prefetched byte (R39). -/
def State.setPrefetch (s : State) (p : Option Byte) : State := { s with prefetch := p }

/-- One flag of PS (R11, R26). -/
def State.flag (s : State) (f : Flag) : Bool := PS.get s.ps f

/-- `next = pc + len` modulo 2^16 (R12, R24). -/
def State.nextPc (s : State) (len : Nat) : Word := s.pc + BitVec.ofNat 16 len

/-- `pc <- next` (R12, R24). -/
def State.advance (s : State) (len : Nat) : State := s.setPc (s.nextPc len)

/-! Memory (R50 to R61). -/

/-- The kind of the first entry that covers an address; ram where none does (log 6). -/
def regionIn : List MapEntry → Nat → Region
  | [], _ => .ram
  | e :: rest, a => if e.base ≤ a ∧ a < e.base + e.size then e.kind else regionIn rest a

/-- `MemMap` at an address (R58). -/
def State.region (s : State) (a : Word) : Region := regionIn s.map a.toNat

/-- The contents of memory replaced. -/
def State.setMem (s : State) (m : Memory) : State := { s with mem := m }

/-- A write that devices received (R286). -/
def State.emit (s : State) (w : DeviceWrite) : State := { s with devOut := s.devOut ++ [w] }

/-- `MemRead(a, 1)` (R50): ram and rom as last written; absent and device addresses a free byte for each read. -/
def State.readByte (s : State) (k : Access) (a : Word) : Byte :=
  match s.region a with
  | .ram => Memory.read s.mem a.toNat
  | .rom => Memory.read s.mem a.toNat
  | .absent => Config.absentByte s.epoch k a
  | .device => Config.deviceByte s.epoch k a

/-- `MemRead(a, 2)` (R51): little-endian, the address of the second byte modulo 2^16 (R53). -/
def State.readWord (s : State) (k : Access) (a : Word) : Word := joinBytes (s.readByte k a) (s.readByte k (a + 1#16))

/-- `MemWrite(a, 1, v)` (R52): rom and absent addresses ignore it; a device receives it. -/
def State.writeByte (s : State) (a : Word) (v : Byte) : State :=
  match s.region a with
  | .ram => s.setMem (Memory.write s.mem a.toNat v)
  | .rom => s
  | .absent => s
  | .device => s.emit (.byte a v)

/-- `MemWrite(a, 2, v)` (R52): the low byte at `a` and the high byte at `a + 1` modulo 2^16 (R53). Where both are device
addresses the order of the two transfers is unspecified (R60), and the device side records the word. -/
def State.writeWord (s : State) (a v : Word) : State :=
  if s.region a = .device ∧ s.region (a + 1#16) = .device then s.emit (.word a v)
  else (s.writeByte a (loByte v)).writeByte (a + 1#16) (hiByte v)

/-! The stack (R22, R160): pushes decrement and then store, pops load and then increment. -/

/-- A word pushed (R160). -/
def State.pushWord (s : State) (v : Word) : State := (s.setSp (s.sp - 2#16)).writeWord (s.sp - 2#16) v

/-- A byte pushed (R160). -/
def State.pushByte (s : State) (v : Byte) : State := (s.setSp (s.sp - 1#16)).writeByte (s.sp - 1#16) v

/-- The word on the top of the stack (R160). -/
def State.topWord (s : State) : Word := s.readWord .data s.sp

/-- The byte on the top of the stack (R160). -/
def State.topByte (s : State) : Byte := s.readByte .data s.sp

/-- The stack pointer past a word (R160). -/
def State.dropWord (s : State) : State := s.setSp (s.sp + 2#16)

/-- The stack pointer past a byte (R160). -/
def State.dropByte (s : State) : State := s.setSp (s.sp + 1#16)

/-! Traps (R241, R249). -/

/-- `TrapEntry(ret, vec)` (R241): the return address is pushed, then PS as it was, then I is cleared and the pc is the
handler's first instruction. Nothing else changes. -/
def State.trapEntry (s : State) (ret vec : Word) : State :=
  let s1 := (s.pushWord ret).pushByte s.ps
  (s1.setPs (PS.put s1.ps .i false)).setPc vec

/-- The return from a trap (R208, R249): PS is popped, all eight bits, and then the pc. -/
def State.trapReturn (s : State) : State :=
  let s1 := (s.setPs s.topByte).dropByte
  (s1.setPc s1.topWord).dropWord

/-- `raise DivideByZero` (R226, R243): the flags are cleared first if `DIVZERO_PS` says so; the return address is that of
the instruction after the one-byte divide. -/
def State.raiseDivideByZero (s : State) : State :=
  (s.setPs (if Config.divZeroClearsFlags then PS.clearArith s.ps else s.ps)).trapEntry (s.nextPc 1) Config.divZeroVector

/-! The end of a storing instruction that falls through, and the prefetch (R66, R283). -/

/-- The opcode byte at `a` as it was before a store, if the store changed it in memory: the next opcode fetch at `a` may see
either (R283). -/
def staleOpcode (before after : Memory) (a : Word) : Option Byte :=
  if Memory.read before a.toNat = Memory.read after a.toNat then none else some (Memory.read before a.toNat)

/-- `pc <- next` after a store (R24), with the byte at `next` perhaps already prefetched (R283). `s` is the state before the
instruction and `t` the state with its stores done. -/
def State.retireStore (s t : State) (len : Nat) : State :=
  (t.setPc (s.nextPc len)).setPrefetch (staleOpcode s.mem t.mem (s.nextPc len))

end Sys2Proof.Machine
end

