-- ==== Sys2Proof/Machine/Operands.lean ====
section
/-! DEFINITION. Every operand form: register fields, effective addresses, small constants, shift counts, bit numbers and
branch targets (spec R21, R93, R140, R170, R187, R202). -/

namespace Sys2Proof.Machine

/-- RC as a general register (R21). -/
def dataReg : DataReg → Reg
  | .r0 => .r0
  | .r1 => .r1

/-- RI as a general register (R21). -/
def indexReg : IndexReg → Reg
  | .r2 => .r2
  | .r3 => .r3

/-- Indirect and post-increment: `EA = x[RI]`, before any increment (R140, R278). -/
def State.eaIndirect (s : State) (ri : IndexReg) : Word := s.reg (indexReg ri)

/-- Post-increment: `x[RI] <- x[RI] + size` modulo 2^16 (R140). -/
def State.bump (s : State) (ri : IndexReg) (size : Nat) : State :=
  s.setReg (indexReg ri) (s.reg (indexReg ri) + BitVec.ofNat 16 size)

/-- Stack relative: `EA = SP + zext_8(m)` modulo 2^16 (R140). -/
def State.eaStack (s : State) (m : Byte) : Word := s.sp + zext8 m

/-- The constant of ADDQ as a 16-bit value (R93, R122). -/
def smallValue : Small → Word
  | .plus2 => 0x0002#16
  | .plus1 => 0x0001#16
  | .minus2 => 0xFFFE#16
  | .minus1 => 0xFFFF#16

/-- The immediate count: `sext_5`, left where positive (R93, R170). -/
def countImm (n : BitVec 5) : Int := n.toInt

/-- The count of an xxL form: the low five bits of Rp, signed (R170). -/
def State.countLeft (s : State) (rp : Reg) : Int := ((s.reg rp).extractLsb' 0 5).toInt

/-- The count of an xxR form: those five bits negated; none where they are 10000, `SH_NEG16` (R170, R184). -/
def State.countRight (s : State) (rp : Reg) : Option Int :=
  if s.countLeft rp = -16 then none else some (-(s.countLeft rp))

/-- The bit number of the register form: the bottom four bits of Rp (R187). -/
def State.bitNumber (s : State) (rp : Reg) : BitVec 4 := (s.reg rp).extractLsb' 0 4

/-- The target of a branch: `next + sext_8(d)` modulo 2^16, next being two bytes on (R202). -/
def State.branchTarget (s : State) (d : Byte) : Word := s.nextPc 2 + sext8 d

/-- The condition table (R201). -/
def State.holds (s : State) (c : Cond) : Bool :=
  match c with
  | .uc => !s.flag .u
  | .us => s.flag .u
  | .hi => !s.flag .c && !s.flag .z
  | .ls => s.flag .c || s.flag .z
  | .cc => !s.flag .c
  | .cs => s.flag .c
  | .ne => !s.flag .z
  | .eq => s.flag .z
  | .vc => !s.flag .v
  | .vs => s.flag .v
  | .pl => !s.flag .n
  | .mi => s.flag .n
  | .ge => s.flag .n == s.flag .v
  | .lt => s.flag .n != s.flag .v
  | .gt => s.flag .n == s.flag .v && !s.flag .z
  | .le => s.flag .z || s.flag .n != s.flag .v

end Sys2Proof.Machine
end

