-- ==== Sys2Proof/Machine/Arith.lean ====
section
/-! DEFINITION. Integer add, subtract and compare instructions (spec 41_arithmetic.md, R120 to R130). -/

namespace Sys2Proof.Machine

/-- `x[RA] <- r` with N, Z, V, C and X = C, `pc <- next` (R120, R121). -/
def State.arithResult (s : State) (ra : Reg) (t : ArithResult) : State :=
  ((s.setReg ra t.r).setPs (PS.arith s.ps t)).advance 1

/-- `x[0] <- r` with N, V, C, X = C and the sticky Z, `pc <- next` (R126). -/
def State.extendedResult (s : State) (t : ArithResult) : State :=
  ((s.setReg .r0 t.r).setPs (PS.extended s.ps t)).advance 1

/-- ADD RA,RB (R121). -/
def execAdd (ra rb : Reg) (s : State) : Result := .next (s.arithResult ra (add16 (s.reg ra) (s.reg rb) false))

/-- ADDQ RA,#small (R122): a negative constant is added, so the carry is that of the addition. -/
def execAddq (ra : Reg) (q : Small) (s : State) : Result :=
  .next (s.arithResult ra (add16 (s.reg ra) (smallValue q) false))

/-- SUB RA,RB (R123). -/
def execSub (ra rb : Reg) (s : State) : Result := .next (s.arithResult ra (sub16 (s.reg ra) (s.reg rb) false))

/-- NEG RA (R124). -/
def execNeg (ra : Reg) (s : State) : Result := .next (s.arithResult ra (sub16 0#16 (s.reg ra) false))

/-- CMP RA,RB (R125): no register and no X is written. -/
def execCmp (ra rb : Reg) (s : State) : Result :=
  .next ((s.setPs (PS.compare s.ps (sub16 (s.reg ra) (s.reg rb) false))).advance 1)

/-- ABS RA (R128): as NEG where the register is negative; else the register is unchanged. -/
def execAbs (ra : Reg) (s : State) : Result :=
  if (s.reg ra).msb then .next (s.arithResult ra (sub16 0#16 (s.reg ra) false))
  else .next ((s.setPs (PS.absNonNegative s.ps (s.reg ra))).advance 1)

/-- ADDX R0,R1 (R130). -/
def execAddx (s : State) : Result := .next (s.extendedResult (add16 (s.reg .r0) (s.reg .r1) (s.flag .x)))

/-- SUBX R0,R1 (R126). -/
def execSubx (s : State) : Result := .next (s.extendedResult (sub16 (s.reg .r0) (s.reg .r1) (s.flag .x)))

/-- NEGX R0 (R127). -/
def execNegx (s : State) : Result := .next (s.extendedResult (sub16 0#16 (s.reg .r0) (s.flag .x)))

end Sys2Proof.Machine
end

