-- ==== Sys2Proof/Machine/Bit.lean ====
section
/-! DEFINITION. Bit instructions and the reserved bit descriptors (spec 44_shift_bit.md, R187 to R192). -/

namespace Sys2Proof.Machine

/-- Bit `k` of a value (R187). -/
def bitOf (v : Word) (k : BitVec 4) : Bool := v.getLsbD k.toNat

/-- A value with bit `k` written (R189 to R191). -/
def withBit (v : Word) (k : BitVec 4) (b : Bool) : Word :=
  if b then v ||| (1#16 <<< k.toNat) else v &&& ~~~(1#16 <<< k.toNat)

/-- Z from the bit as it was, and `pc <- next` (R187). -/
def State.bitTest (s : State) (ra : Reg) (k : BitVec 4) : State :=
  (s.setPs (PS.bitTest s.ps (bitOf (s.reg ra) k))).advance 2

/-- Z from the bit as it was, the bit written, and `pc <- next` (R187). -/
def State.bitWrite (s : State) (ra : Reg) (k : BitVec 4) (b : Bool) : State :=
  ((s.setReg ra (withBit (s.reg ra) k b)).setPs (PS.bitTest s.ps (bitOf (s.reg ra) k))).advance 2

/-- BTST RA,#bit (R188). -/
def execBtstImm (ra : Reg) (k : BitVec 4) (s : State) : Result := .next (s.bitTest ra k)

/-- BTST RA,Rp (R188). -/
def execBtstReg (ra rp : Reg) (s : State) : Result := .next (s.bitTest ra (s.bitNumber rp))

/-- BCHG RA,#bit (R189). -/
def execBchgImm (ra : Reg) (k : BitVec 4) (s : State) : Result := .next (s.bitWrite ra k (!(bitOf (s.reg ra) k)))

/-- BCHG RA,Rp (R189). -/
def execBchgReg (ra rp : Reg) (s : State) : Result :=
  .next (s.bitWrite ra (s.bitNumber rp) (!(bitOf (s.reg ra) (s.bitNumber rp))))

/-- BCLR RA,#bit (R190). -/
def execBclrImm (ra : Reg) (k : BitVec 4) (s : State) : Result := .next (s.bitWrite ra k false)

/-- BCLR RA,Rp (R190). -/
def execBclrReg (ra rp : Reg) (s : State) : Result := .next (s.bitWrite ra (s.bitNumber rp) false)

/-- BSET RA,#bit (R191). -/
def execBsetImm (ra : Reg) (k : BitVec 4) (s : State) : Result := .next (s.bitWrite ra k true)

/-- BSET RA,Rp (R191). -/
def execBsetReg (ra rp : Reg) (s : State) : Result := .next (s.bitWrite ra (s.bitNumber rp) true)

/-- `BIT_IMM_RESERVED` (R94, R192): the spec refuses it (D14). -/
def execBitImmReserved (_ra : Reg) (_fn : BitVec 2) (_k : BitVec 4) (_s : State) : Result := .refused .bitImmReserved

/-- `BIT_REG_RESERVED` (R94, R192): the spec refuses it (D14). -/
def execBitRegReserved (_ra : Reg) (_fn : BitVec 2) (_zero : BitVec 3) (_rp : Reg) (_s : State) : Result :=
  .refused .bitRegReserved

end Sys2Proof.Machine
end

