-- ==== Sys2Proof/Machine/Control.lean ====
section
/-! DEFINITION. Control-transfer instructions (spec 45_control.md, R200 to R211, R300 to R315). -/

namespace Sys2Proof.Machine

/-- A conditional branch (R202). -/
def State.branch (s : State) (c : Cond) (d : Byte) : State :=
  if s.holds c then s.setPc (s.branchTarget d) else s.advance 2

/-- A subroutine call from an instruction of `len` bytes (R205, R206): the address of the next instruction is pushed. -/
def State.call (s : State) (target : Word) (len : Nat) : State := (s.pushWord (s.nextPc len)).setPc target

/-- BUC target (R300). -/
def execBuc (d : Byte) (s : State) : Result := .next (s.branch .uc d)

/-- BUS target (R301). -/
def execBus (d : Byte) (s : State) : Result := .next (s.branch .us d)

/-- BHI target (R302). -/
def execBhi (d : Byte) (s : State) : Result := .next (s.branch .hi d)

/-- BLS target (R303). -/
def execBls (d : Byte) (s : State) : Result := .next (s.branch .ls d)

/-- BCC target (R304). -/
def execBcc (d : Byte) (s : State) : Result := .next (s.branch .cc d)

/-- BCS target (R305). -/
def execBcs (d : Byte) (s : State) : Result := .next (s.branch .cs d)

/-- BNE target (R306). -/
def execBne (d : Byte) (s : State) : Result := .next (s.branch .ne d)

/-- BEQ target (R307). -/
def execBeq (d : Byte) (s : State) : Result := .next (s.branch .eq d)

/-- BVC target (R308). -/
def execBvc (d : Byte) (s : State) : Result := .next (s.branch .vc d)

/-- BVS target (R309). -/
def execBvs (d : Byte) (s : State) : Result := .next (s.branch .vs d)

/-- BPL target (R310). -/
def execBpl (d : Byte) (s : State) : Result := .next (s.branch .pl d)

/-- BMI target (R311). -/
def execBmi (d : Byte) (s : State) : Result := .next (s.branch .mi d)

/-- BGE target (R312). -/
def execBge (d : Byte) (s : State) : Result := .next (s.branch .ge d)

/-- BLT target (R313). -/
def execBlt (d : Byte) (s : State) : Result := .next (s.branch .lt d)

/-- BGT target (R314). -/
def execBgt (d : Byte) (s : State) : Result := .next (s.branch .gt d)

/-- BLE target (R315). -/
def execBle (d : Byte) (s : State) : Result := .next (s.branch .le d)

/-- JMP (R0) (R203). -/
def execJmpR0 (s : State) : Result := .next (s.setPc (s.reg .r0))

/-- JMP address (R204). -/
def execJmpAbs (addr : Word) (s : State) : Result := .next (s.setPc addr)

/-- JSR (R0) (R205). -/
def execJsrR0 (s : State) : Result := .next (s.call (s.reg .r0) 1)

/-- JSR address (R206). -/
def execJsrAbs (addr : Word) (s : State) : Result := .next (s.call addr 3)

/-- RET (R207). -/
def execRet (s : State) : Result := .next ((s.setPc s.topWord).dropWord)

/-- RETI (R208). -/
def execReti (s : State) : Result := .next s.trapReturn

/-- The entry address of TRAP (R59, R242): code, not a pointer. -/
def trapVector : Word := 0x000C#16

/-- TRAP (R209, R242). -/
def execTrap (s : State) : Result := .next (s.trapEntry (s.nextPc 1) trapVector)

/-- NOP (R210). -/
def execNop (s : State) : Result := .next (s.advance 1)

/-- NOP, the second encoding (R211). -/
def execNopC5 (s : State) : Result := .next (s.advance 1)

end Sys2Proof.Machine
end

