-- ==== Sys2Proof/Machine/LoadStore.lean ====
section
/-! DEFINITION. Load and store instructions (spec 42_load_store.md, R140 to R159). -/

namespace Sys2Proof.Machine

/-- `x[r] <- v`, `LogicFlags(v)` (R140, R159). -/
def State.load (s : State) (r : Reg) (v : Word) : State := (s.setReg r v).setPs (PS.logic s.ps v)

/-- `MemWrite(EA, 2, x[r])`, `LogicFlags(x[r])` (R140, R159). -/
def State.storeWord (s : State) (ea : Word) (r : Reg) : State := (s.writeWord ea (s.reg r)).setPs (PS.logic s.ps (s.reg r))

/-- `MemWrite(EA, 1, x[r][7:0])`, `LogicFlags(x[r])` of the whole register (R140, R159). -/
def State.storeByte (s : State) (ea : Word) (r : Reg) : State :=
  (s.writeByte ea (loByte (s.reg r))).setPs (PS.logic s.ps (s.reg r))

/-! Indirect (R141 to R144). -/

/-- LD.W RC,(RI) (R141). -/
def execLdwInd (rc : DataReg) (ri : IndexReg) (s : State) : Result :=
  .next ((s.load (dataReg rc) (s.readWord .data (s.eaIndirect ri))).advance 1)

/-- LD.B RC,(RI) (R142). -/
def execLdbInd (rc : DataReg) (ri : IndexReg) (s : State) : Result :=
  .next ((s.load (dataReg rc) (zext8 (s.readByte .data (s.eaIndirect ri)))).advance 1)

/-- ST.W (RI),RC (R143). -/
def execStwInd (rc : DataReg) (ri : IndexReg) (s : State) : Result :=
  .next (s.retireStore (s.storeWord (s.eaIndirect ri) (dataReg rc)) 1)

/-- ST.B (RI),RC (R144). -/
def execStbInd (rc : DataReg) (ri : IndexReg) (s : State) : Result :=
  .next (s.retireStore (s.storeByte (s.eaIndirect ri) (dataReg rc)) 1)

/-! Post-increment: memory first, then the index (R145 to R148, R61). -/

/-- LD.W RC,(RI++) (R145). -/
def execLdwInc (rc : DataReg) (ri : IndexReg) (s : State) : Result :=
  .next (((s.load (dataReg rc) (s.readWord .data (s.eaIndirect ri))).bump ri 2).advance 1)

/-- LD.B RC,(RI++) (R146). -/
def execLdbInc (rc : DataReg) (ri : IndexReg) (s : State) : Result :=
  .next (((s.load (dataReg rc) (zext8 (s.readByte .data (s.eaIndirect ri)))).bump ri 1).advance 1)

/-- ST.W (RI++),RC (R147). -/
def execStwInc (rc : DataReg) (ri : IndexReg) (s : State) : Result :=
  .next (s.retireStore ((s.storeWord (s.eaIndirect ri) (dataReg rc)).bump ri 2) 1)

/-- ST.B (RI++),RC (R148). -/
def execStbInc (rc : DataReg) (ri : IndexReg) (s : State) : Result :=
  .next (s.retireStore ((s.storeByte (s.eaIndirect ri) (dataReg rc)).bump ri 1) 1)

/-! Stack relative (R149 to R152). -/

/-- LD.W RA,(SP,m) (R149). -/
def execLdwSp (ra : Reg) (m : Byte) (s : State) : Result := .next ((s.load ra (s.readWord .data (s.eaStack m))).advance 2)

/-- LD.B RA,(SP,m) (R150). -/
def execLdbSp (ra : Reg) (m : Byte) (s : State) : Result :=
  .next ((s.load ra (zext8 (s.readByte .data (s.eaStack m)))).advance 2)

/-- ST.W (SP,m),RA (R151). -/
def execStwSp (ra : Reg) (m : Byte) (s : State) : Result := .next (s.retireStore (s.storeWord (s.eaStack m) ra) 2)

/-- ST.B (SP,m),RA (R152). -/
def execStbSp (ra : Reg) (m : Byte) (s : State) : Result := .next (s.retireStore (s.storeByte (s.eaStack m) ra) 2)

/-! Absolute (R153 to R156). -/

/-- LD.W RA,address (R153). -/
def execLdwAbs (ra : Reg) (addr : Word) (s : State) : Result := .next ((s.load ra (s.readWord .data addr)).advance 3)

/-- LD.B RA,address (R154). -/
def execLdbAbs (ra : Reg) (addr : Word) (s : State) : Result := .next ((s.load ra (zext8 (s.readByte .data addr))).advance 3)

/-- ST.W address,RA (R155). -/
def execStwAbs (ra : Reg) (addr : Word) (s : State) : Result := .next (s.retireStore (s.storeWord addr ra) 3)

/-- ST.B address,RA (R156). -/
def execStbAbs (ra : Reg) (addr : Word) (s : State) : Result := .next (s.retireStore (s.storeByte addr ra) 3)

/-! Immediate (R157, R158). -/

/-- LD.W RA,#imm16 (R157). -/
def execLdwImm (ra : Reg) (imm : Word) (s : State) : Result := .next ((s.load ra imm).advance 3)

/-- LD.B RA,#imm8 (R158): zero-extended. -/
def execLdbImm (ra : Reg) (imm : Byte) (s : State) : Result := .next ((s.load ra (zext8 imm)).advance 2)

end Sys2Proof.Machine
end

