-- ==== Sys2Proof/Machine/MoveLogic.lean ====
section
/-! DEFINITION. Register move and logical instructions (spec 40_move_logic.md, R110 to R117). -/

namespace Sys2Proof.Machine

/-- `x[RA] <- v`, `LogicFlags(v)`, `pc <- next` (R110). -/
def State.logicResult (s : State) (ra : Reg) (v : Word) (len : Nat) : State :=
  ((s.setReg ra v).setPs (PS.logic s.ps v)).advance len

/-- MOVE RA,RB (R111). -/
def execMove (ra rb : Reg) (s : State) : Result := .next (s.logicResult ra (s.reg rb) 1)

/-- SXT RA (R112). -/
def execSxt (ra : Reg) (s : State) : Result := .next (s.logicResult ra (sext8 (loByte (s.reg ra))) 1)

/-- AND RA,RB (R113). -/
def execAnd (ra rb : Reg) (s : State) : Result := .next (s.logicResult ra (s.reg ra &&& s.reg rb) 1)

/-- TEST RA (R114): the register is unchanged. -/
def execTest (ra : Reg) (s : State) : Result := .next ((s.setPs (PS.logic s.ps (s.reg ra))).advance 1)

/-- XOR RA,RB (R115). -/
def execXor (ra rb : Reg) (s : State) : Result := .next (s.logicResult ra (s.reg ra ^^^ s.reg rb) 1)

/-- CLR RA, which is XOR RA,RA (R115). -/
def execClr (ra : Reg) (s : State) : Result := .next (s.logicResult ra (s.reg ra ^^^ s.reg ra) 1)

/-- OR RA,RB (R116). -/
def execOr (ra rb : Reg) (s : State) : Result := .next (s.logicResult ra (s.reg ra ||| s.reg rb) 1)

/-- INV RA (R117). -/
def execInv (ra : Reg) (s : State) : Result := .next (s.logicResult ra (~~~(s.reg ra)) 1)

end Sys2Proof.Machine
end

