-- ==== Sys2Proof/Machine/MulDiv.lean ====
section
/-! DEFINITION. Multiply, divide, square root and PS-immediate instructions (spec 46_muldiv_ps.md, R220 to R231). -/

namespace Sys2Proof.Machine

/-- `ClearArith()`, `pc <- next` (R220). -/
def State.finishClear (s : State) : State := (s.setPs (PS.clearArith s.ps)).advance 1

/-- MULU (R221): the exact product, low word to R2 and high word to R3. -/
def execMulu (s : State) : Result :=
  let p := (s.reg .r0).toNat * (s.reg .r1).toNat
  .next ((s.setReg .r2 (BitVec.ofNat 16 p)).setReg .r3 (BitVec.ofNat 16 (p / 2 ^ 16))).finishClear

/-- The 32-bit image of the signed product (R222). -/
def signedProduct (a b : Word) : Nat := ((a.toInt * b.toInt) % 2 ^ 32).toNat

/-- MULS (R222): R0 is a free value after it (log 15). -/
def execMuls (s : State) : Result :=
  let q := signedProduct (s.reg .r0) (s.reg .r1)
  .next (((s.setReg .r2 (BitVec.ofNat 16 q)).setReg .r3 (BitVec.ofNat 16 (q / 2 ^ 16))).setReg .r0
    (Config.freeWord s.epoch .mulsR0)).finishClear

/-- DIVU (R224). -/
def execDivu (s : State) : Result :=
  if s.reg .r1 = 0#16 then .next s.raiseDivideByZero
  else
    .next ((s.setReg .r2 (BitVec.ofNat 16 ((s.reg .r0).toNat / (s.reg .r1).toNat))).setReg .r3
      (BitVec.ofNat 16 ((s.reg .r0).toNat % (s.reg .r1).toNat))).finishClear

/-- The signed quotient (R225): D = 0 rounds toward zero; D = 1 goes with the remainder that is never negative. -/
def signedQuotient (d : Bool) (a b : Int) : Int := if d then a / b else a.tdiv b

/-- The signed remainder (R225): D = 0 has the sign of the dividend; D = 1 is never negative. -/
def signedRemainder (d : Bool) (a b : Int) : Int := if d then a % b else a.tmod b

/-- DIVS (R225): R1 becomes its absolute value. The quotient +32768 does not fit: R2 and R3 are then free values, and the
rest is done (R231, log 17). -/
def execDivs (s : State) : Result :=
  if s.reg .r1 = 0#16 then .next s.raiseDivideByZero
  else
    let a := (s.reg .r0).toInt
    let b := (s.reg .r1).toInt
    let q := signedQuotient (s.flag .d) a b
    let r := signedRemainder (s.flag .d) a b
    let quotient := if q = 32768 then Config.freeWord s.epoch .divsQuotient else BitVec.ofInt 16 q
    let remainder := if q = 32768 then Config.freeWord s.epoch .divsRemainder else BitVec.ofInt 16 r
    .next (((s.setReg .r2 quotient).setReg .r3 remainder).setReg .r1 (BitVec.ofNat 16 b.natAbs)).finishClear

/-- The root from its binary digits below `2 ^ k`, the greatest first, on top of `r`: a digit is kept where the square is
still not above `n`. -/
def isqrtDigits (n : Nat) : Nat → Nat → Nat
  | 0, r => r
  | k + 1, r => if (r + 2 ^ k) * (r + 2 ^ k) ≤ n then isqrtDigits n k (r + 2 ^ k) else isqrtDigits n k r

/-- `floor(sqrt(n))` for a 16-bit `n` (R227): eight binary digits. -/
def isqrt (n : Nat) : Nat := isqrtDigits n 8 0

/-- SQRT (R227): the root to R0, the error to R1, 0 to R3. Where bit 15 of R1 is set R0 and R1 are free values, and the
rest is done (log 16). -/
def execSqrt (s : State) : Result :=
  let n := (s.reg .r1).toNat
  let root := if (s.reg .r1).msb then Config.freeWord s.epoch .sqrtRoot else BitVec.ofNat 16 (isqrt n)
  let error := if (s.reg .r1).msb then Config.freeWord s.epoch .sqrtError else BitVec.ofNat 16 (n - isqrt n * isqrt n)
  .next (((s.setReg .r0 root).setReg .r1 error).setReg .r3 0#16).finishClear

/-- AND PS,#imm8 (R228): all eight bits. -/
def execAndPs (imm : Byte) (s : State) : Result := .next ((s.setPs (s.ps &&& imm)).advance 2)

/-- OR PS,#imm8 (R229): all eight bits. -/
def execOrPs (imm : Byte) (s : State) : Result := .next ((s.setPs (s.ps ||| imm)).advance 2)

end Sys2Proof.Machine
end

