-- ==== Sys2Proof/Machine/Shift.lean ====
section
/-! DEFINITION. Shift, rotate and weight instructions, and the reserved shift descriptors (spec 44_shift_bit.md, R170 to R186). -/

namespace Sys2Proof.Machine

/-- What a shift carries from step to step (R171, R172): the operand, the running X, the bit that left last, and whether
bit 15 ever changed. -/
structure ShiftState where
  v : Word
  x : Bool
  out : Bool
  msbChanged : Bool
deriving DecidableEq, Repr

/-- The bit that enters the operand in one step (R171). -/
def enteringBit (fn : ShiftFn) (left : Bool) (v : Word) (x out : Bool) : Bool :=
  match fn, left with
  | .logical, _ => false
  | .arithmetic, true => false
  | .arithmetic, false => v.msb
  | .rotate, _ => out
  | .rotateX, _ => x

/-- One step (R171). -/
def shiftStep (fn : ShiftFn) (left : Bool) (t : ShiftState) : ShiftState :=
  let out := if left then t.v.msb else t.v.getLsbD 0
  let b := BitVec.ofBool (enteringBit fn left t.v t.x out)
  let v : Word := if left then t.v.extractLsb' 0 15 ++ b else b ++ t.v.extractLsb' 1 15
  { v := v
    x := if fn = .rotateX then out else t.x
    out := out
    msbChanged := t.msbChanged || (v.msb != t.v.msb) }

/-- So many steps (R172). -/
def shiftSteps (fn : ShiftFn) (left : Bool) : Nat → ShiftState → ShiftState
  | 0, t => t
  | k + 1, t => shiftSteps fn left k (shiftStep fn left t)

/-- The shift or rotate proper of a value by `n` places, left where positive, from the flag X (R172). -/
def shiftRun (fn : ShiftFn) (n : Int) (v : Word) (x : Bool) : ShiftState :=
  shiftSteps fn (decide (0 < n)) n.natAbs { v := v, x := x, out := false, msbChanged := false }

/-- V of a shift (R174): for left shifts whether bit 15 ever changed; clear for right shifts and rotates. -/
def shiftOverflow (fn : ShiftFn) (n : Int) (t : ShiftState) : Bool :=
  match fn with
  | .logical => decide (0 < n) && t.msbChanged
  | .arithmetic => decide (0 < n) && t.msbChanged
  | .rotate => false
  | .rotateX => false

/-- A shift or rotate of RA by `n` places (R172): a count of zero writes N and Z, clears V and C and keeps X. -/
def State.shift (s : State) (fn : ShiftFn) (ra : Reg) (n : Int) : State :=
  if n = 0 then (s.setPs (PS.shiftZero s.ps (s.reg ra))).advance 2
  else
    let t := shiftRun fn n (s.reg ra) (s.flag .x)
    ((s.setReg ra t.v).setPs (PS.shift s.ps t.v (shiftOverflow fn n t) t.out (fn != .rotate))).advance 2

/-- `SH_NEG16` (R184): RA and the flags N, Z, V, C and X are each a free value; nothing else changes but the pc (log 18). -/
def State.shiftFree (s : State) (ra : Reg) : State :=
  let ps1 := PS.put (PS.put s.ps .n (Config.freeBit s.epoch .shNeg16N)) .z (Config.freeBit s.epoch .shNeg16Z)
  let ps2 := PS.put (PS.put ps1 .v (Config.freeBit s.epoch .shNeg16V)) .c (Config.freeBit s.epoch .shNeg16C)
  let ps3 := PS.put ps2 .x (Config.freeBit s.epoch .shNeg16X)
  ((s.setReg ra (Config.freeWord s.epoch .shNeg16)).setPs ps3).advance 2

/-- A shift by the count of an xxR form (R170, R184). -/
def State.shiftRight (s : State) (fn : ShiftFn) (ra : Reg) (count : Option Int) : State :=
  match count with
  | some n => s.shift fn ra n
  | none => s.shiftFree ra

/-- The number of 1 bits among the `k` low bits (R183). -/
def onesBelow (v : Word) : Nat → Nat
  | 0 => 0
  | k + 1 => onesBelow v k + (v.getLsbD k).toNat

/-- The weight for an effective count (R183): the ones that leave bit 0 in a right movement, none for a count of zero, and
a free value for a left movement, `WT_LEFT` (R184, log 19). -/
def State.weightOf (s : State) (v : Word) (n : Int) : Word :=
  if n < 0 then BitVec.ofNat 16 (onesBelow v n.natAbs)
  else if n = 0 then 0#16
  else Config.freeWord s.epoch .wtLeft

/-- A weight form (R183): the operand is replaced by the weight; the kind of movement does not matter. -/
def State.weigh (s : State) (ra : Reg) (n : Int) : State :=
  ((s.setReg ra (s.weightOf (s.reg ra) n)).setPs (PS.weight s.ps (s.weightOf (s.reg ra) n))).advance 2

/-- A weight by the count of an xxR form (R170, R184). -/
def State.weighRight (s : State) (ra : Reg) (count : Option Int) : State :=
  match count with
  | some n => s.weigh ra n
  | none => s.shiftFree ra

/-- LSL RA,#n (R175). -/
def execLslImm (ra : Reg) (n : BitVec 5) (s : State) : Result := .next (s.shift .logical ra (countImm n))

/-- LSL RA,Rp (R175). -/
def execLslReg (ra rp : Reg) (s : State) : Result := .next (s.shift .logical ra (s.countLeft rp))

/-- LSR RA,Rp (R176): the count is negated. -/
def execLsrReg (ra rp : Reg) (s : State) : Result := .next (s.shiftRight .logical ra (s.countRight rp))

/-- LSL.WT RA,Rp (R183). -/
def execLslWt (ra rp : Reg) (s : State) : Result := .next (s.weigh ra (s.countLeft rp))

/-- LSR.WT RA,Rp (R183): the count is negated. -/
def execLsrWt (ra rp : Reg) (s : State) : Result := .next (s.weighRight ra (s.countRight rp))

/-- ASL RA,#n (R177). -/
def execAslImm (ra : Reg) (n : BitVec 5) (s : State) : Result := .next (s.shift .arithmetic ra (countImm n))

/-- ASL RA,Rp (R177). -/
def execAslReg (ra rp : Reg) (s : State) : Result := .next (s.shift .arithmetic ra (s.countLeft rp))

/-- ASR RA,Rp (R178): the count is negated. -/
def execAsrReg (ra rp : Reg) (s : State) : Result := .next (s.shiftRight .arithmetic ra (s.countRight rp))

/-- ASL.WT RA,Rp (R183). -/
def execAslWt (ra rp : Reg) (s : State) : Result := .next (s.weigh ra (s.countLeft rp))

/-- ASR.WT RA,Rp (R183): the count is negated. -/
def execAsrWt (ra rp : Reg) (s : State) : Result := .next (s.weighRight ra (s.countRight rp))

/-- ROL RA,#n (R179). -/
def execRolImm (ra : Reg) (n : BitVec 5) (s : State) : Result := .next (s.shift .rotate ra (countImm n))

/-- ROL RA,Rp (R179). -/
def execRolReg (ra rp : Reg) (s : State) : Result := .next (s.shift .rotate ra (s.countLeft rp))

/-- ROR RA,Rp (R180): the count is negated. -/
def execRorReg (ra rp : Reg) (s : State) : Result := .next (s.shiftRight .rotate ra (s.countRight rp))

/-- ROL.WT RA,Rp (R183). -/
def execRolWt (ra rp : Reg) (s : State) : Result := .next (s.weigh ra (s.countLeft rp))

/-- ROR.WT RA,Rp (R183): the count is negated. -/
def execRorWt (ra rp : Reg) (s : State) : Result := .next (s.weighRight ra (s.countRight rp))

/-- ROXL RA,#n (R181). -/
def execRoxlImm (ra : Reg) (n : BitVec 5) (s : State) : Result := .next (s.shift .rotateX ra (countImm n))

/-- ROXL RA,Rp (R181). -/
def execRoxlReg (ra rp : Reg) (s : State) : Result := .next (s.shift .rotateX ra (s.countLeft rp))

/-- ROXR RA,Rp (R182): the count is negated. -/
def execRoxrReg (ra rp : Reg) (s : State) : Result := .next (s.shiftRight .rotateX ra (s.countRight rp))

/-- ROXL.WT RA,Rp (R183). -/
def execRoxlWt (ra rp : Reg) (s : State) : Result := .next (s.weigh ra (s.countLeft rp))

/-- ROXR.WT RA,Rp (R183): the count is negated. -/
def execRoxrWt (ra rp : Reg) (s : State) : Result := .next (s.weighRight ra (s.countRight rp))

/-- `SH_RESERVED` (R94, R184): the spec refuses it (D14). -/
def execShReserved (_ra : Reg) (_fn : BitVec 2) (_lr _w : BitVec 1) (_rp : Reg) (_s : State) : Result := .refused .shReserved

end Sys2Proof.Machine
end

