-- ==== Sys2Proof/Machine/Stack.lean ====
section
/-! DEFINITION. Stack and stack-pointer instructions (spec 43_stack.md, R160 to R167). -/

namespace Sys2Proof.Machine

/-- PUSH RA (R161): the flags are those of the value. -/
def execPushReg (ra : Reg) (s : State) : Result :=
  .next (s.retireStore ((s.pushWord (s.reg ra)).setPs (PS.logic s.ps (s.reg ra))) 1)

/-- POP RA (R162). -/
def execPopReg (ra : Reg) (s : State) : Result :=
  .next ((((s.setReg ra s.topWord).dropWord).setPs (PS.logic s.ps s.topWord)).advance 1)

/-- PUSH PS (R163): no flag changes. -/
def execPushPs (s : State) : Result := .next (s.retireStore (s.pushByte s.ps) 1)

/-- POP PS (R164): all eight bits. -/
def execPopPs (s : State) : Result := .next (((s.setPs s.topByte).dropByte).advance 1)

/-- MOVE R0,SP (R165): no flag changes. -/
def execMoveR0Sp (s : State) : Result := .next ((s.setReg .r0 s.sp).advance 1)

/-- MOVE SP,R0 (R166): no flag changes. -/
def execMoveSpR0 (s : State) : Result := .next ((s.setSp (s.reg .r0)).advance 1)

/-- ADD SP,#imm8 (R167): the immediate is signed; no flag changes. -/
def execAddSp (imm : Byte) (s : State) : Result := .next ((s.setSp (s.sp + sext8 imm)).advance 2)

end Sys2Proof.Machine
end

