-- ==== Sys2Proof/Machine/Dispatch.lean ====
section
/-! DEFINITION. One arm per instruction, each one call of its meaning (spec R96: the instruction is selected once, by decoding). -/

namespace Sys2Proof.Machine

def exec (i : Instr) (s : State) : Host.Outcome State Fault Refusal :=
  match i with
  | .move ra rb => Sys2Proof.Machine.execMove ra rb s
  | .sxt ra => Sys2Proof.Machine.execSxt ra s
  | .and ra rb => Sys2Proof.Machine.execAnd ra rb s
  | .test ra => Sys2Proof.Machine.execTest ra s
  | .xor ra rb => Sys2Proof.Machine.execXor ra rb s
  | .clr ra => Sys2Proof.Machine.execClr ra s
  | .or ra rb => Sys2Proof.Machine.execOr ra rb s
  | .inv ra => Sys2Proof.Machine.execInv ra s
  | .add ra rb => Sys2Proof.Machine.execAdd ra rb s
  | .addq ra q => Sys2Proof.Machine.execAddq ra q s
  | .sub ra rb => Sys2Proof.Machine.execSub ra rb s
  | .neg ra => Sys2Proof.Machine.execNeg ra s
  | .cmp ra rb => Sys2Proof.Machine.execCmp ra rb s
  | .abs ra => Sys2Proof.Machine.execAbs ra s
  | .ldwInd rc ri => Sys2Proof.Machine.execLdwInd rc ri s
  | .ldbInd rc ri => Sys2Proof.Machine.execLdbInd rc ri s
  | .stwInd rc ri => Sys2Proof.Machine.execStwInd rc ri s
  | .stbInd rc ri => Sys2Proof.Machine.execStbInd rc ri s
  | .ldwInc rc ri => Sys2Proof.Machine.execLdwInc rc ri s
  | .ldbInc rc ri => Sys2Proof.Machine.execLdbInc rc ri s
  | .stwInc rc ri => Sys2Proof.Machine.execStwInc rc ri s
  | .stbInc rc ri => Sys2Proof.Machine.execStbInc rc ri s
  | .ldwSp ra m => Sys2Proof.Machine.execLdwSp ra m s
  | .ldbSp ra m => Sys2Proof.Machine.execLdbSp ra m s
  | .stwSp ra m => Sys2Proof.Machine.execStwSp ra m s
  | .stbSp ra m => Sys2Proof.Machine.execStbSp ra m s
  | .ldwAbs ra addr => Sys2Proof.Machine.execLdwAbs ra addr s
  | .ldbAbs ra addr => Sys2Proof.Machine.execLdbAbs ra addr s
  | .stwAbs ra addr => Sys2Proof.Machine.execStwAbs ra addr s
  | .stbAbs ra addr => Sys2Proof.Machine.execStbAbs ra addr s
  | .popReg ra => Sys2Proof.Machine.execPopReg ra s
  | .popPs => Sys2Proof.Machine.execPopPs s
  | .nopC5 => Sys2Proof.Machine.execNopC5 s
  | .ret => Sys2Proof.Machine.execRet s
  | .reti => Sys2Proof.Machine.execReti s
  | .pushReg ra => Sys2Proof.Machine.execPushReg ra s
  | .pushPs => Sys2Proof.Machine.execPushPs s
  | .trap => Sys2Proof.Machine.execTrap s
  | .jsrR0 => Sys2Proof.Machine.execJsrR0 s
  | .jsrAbs addr => Sys2Proof.Machine.execJsrAbs addr s
  | .ldwImm ra imm => Sys2Proof.Machine.execLdwImm ra imm s
  | .ldbImm ra imm => Sys2Proof.Machine.execLdbImm ra imm s
  | .lslImm ra n => Sys2Proof.Machine.execLslImm ra n s
  | .lslReg ra rp => Sys2Proof.Machine.execLslReg ra rp s
  | .lsrReg ra rp => Sys2Proof.Machine.execLsrReg ra rp s
  | .lslWt ra rp => Sys2Proof.Machine.execLslWt ra rp s
  | .lsrWt ra rp => Sys2Proof.Machine.execLsrWt ra rp s
  | .aslImm ra n => Sys2Proof.Machine.execAslImm ra n s
  | .aslReg ra rp => Sys2Proof.Machine.execAslReg ra rp s
  | .asrReg ra rp => Sys2Proof.Machine.execAsrReg ra rp s
  | .aslWt ra rp => Sys2Proof.Machine.execAslWt ra rp s
  | .asrWt ra rp => Sys2Proof.Machine.execAsrWt ra rp s
  | .rolImm ra n => Sys2Proof.Machine.execRolImm ra n s
  | .rolReg ra rp => Sys2Proof.Machine.execRolReg ra rp s
  | .rorReg ra rp => Sys2Proof.Machine.execRorReg ra rp s
  | .rolWt ra rp => Sys2Proof.Machine.execRolWt ra rp s
  | .rorWt ra rp => Sys2Proof.Machine.execRorWt ra rp s
  | .roxlImm ra n => Sys2Proof.Machine.execRoxlImm ra n s
  | .roxlReg ra rp => Sys2Proof.Machine.execRoxlReg ra rp s
  | .roxrReg ra rp => Sys2Proof.Machine.execRoxrReg ra rp s
  | .roxlWt ra rp => Sys2Proof.Machine.execRoxlWt ra rp s
  | .roxrWt ra rp => Sys2Proof.Machine.execRoxrWt ra rp s
  | .shReserved ra fn lr w rp => Sys2Proof.Machine.execShReserved ra fn lr w rp s
  | .btstImm ra k => Sys2Proof.Machine.execBtstImm ra k s
  | .btstReg ra rp => Sys2Proof.Machine.execBtstReg ra rp s
  | .bchgImm ra k => Sys2Proof.Machine.execBchgImm ra k s
  | .bchgReg ra rp => Sys2Proof.Machine.execBchgReg ra rp s
  | .bclrImm ra k => Sys2Proof.Machine.execBclrImm ra k s
  | .bclrReg ra rp => Sys2Proof.Machine.execBclrReg ra rp s
  | .bsetImm ra k => Sys2Proof.Machine.execBsetImm ra k s
  | .bsetReg ra rp => Sys2Proof.Machine.execBsetReg ra rp s
  | .bitImmReserved ra fn k => Sys2Proof.Machine.execBitImmReserved ra fn k s
  | .bitRegReserved ra fn zero rp => Sys2Proof.Machine.execBitRegReserved ra fn zero rp s
  | .buc d => Sys2Proof.Machine.execBuc d s
  | .bus d => Sys2Proof.Machine.execBus d s
  | .bhi d => Sys2Proof.Machine.execBhi d s
  | .bls d => Sys2Proof.Machine.execBls d s
  | .bcc d => Sys2Proof.Machine.execBcc d s
  | .bcs d => Sys2Proof.Machine.execBcs d s
  | .bne d => Sys2Proof.Machine.execBne d s
  | .beq d => Sys2Proof.Machine.execBeq d s
  | .bvc d => Sys2Proof.Machine.execBvc d s
  | .bvs d => Sys2Proof.Machine.execBvs d s
  | .bpl d => Sys2Proof.Machine.execBpl d s
  | .bmi d => Sys2Proof.Machine.execBmi d s
  | .bge d => Sys2Proof.Machine.execBge d s
  | .blt d => Sys2Proof.Machine.execBlt d s
  | .bgt d => Sys2Proof.Machine.execBgt d s
  | .ble d => Sys2Proof.Machine.execBle d s
  | .moveR0Sp => Sys2Proof.Machine.execMoveR0Sp s
  | .moveSpR0 => Sys2Proof.Machine.execMoveSpR0 s
  | .jmpR0 => Sys2Proof.Machine.execJmpR0 s
  | .jmpAbs addr => Sys2Proof.Machine.execJmpAbs addr s
  | .andPs imm => Sys2Proof.Machine.execAndPs imm s
  | .orPs imm => Sys2Proof.Machine.execOrPs imm s
  | .addSp imm => Sys2Proof.Machine.execAddSp imm s
  | .sqrt => Sys2Proof.Machine.execSqrt s
  | .mulu => Sys2Proof.Machine.execMulu s
  | .muls => Sys2Proof.Machine.execMuls s
  | .divu => Sys2Proof.Machine.execDivu s
  | .divs => Sys2Proof.Machine.execDivs s
  | .addx => Sys2Proof.Machine.execAddx s
  | .subx => Sys2Proof.Machine.execSubx s
  | .negx => Sys2Proof.Machine.execNegx s
  | .nop => Sys2Proof.Machine.execNop s

end Sys2Proof.Machine
end

