-- ==== Sys2Proof/WellFormed.lean ====
section
/-! DEFINITION. Which instruction terms an encoding exists for (spec R84, R94, R100), and how long each is (R83). Every
other bound on an operand is in its type. -/

namespace Sys2Proof

/-- The relations between operands that select a row of the table: RA != RB for the two-register instructions whose
equal-register words are another instruction (R84), and a non-zero field for the reserved register form (R94). -/
def Instr.wf : Instr → Bool
  | .move ra rb => ra != rb
  | .and ra rb => ra != rb
  | .xor ra rb => ra != rb
  | .or ra rb => ra != rb
  | .sub ra rb => ra != rb
  | .cmp ra rb => ra != rb
  | .bitRegReserved _ _ zero _ => zero != 0#3
  | .sxt _ | .test _ | .clr _ | .inv _ | .add _ _ | .addq _ _ | .neg _ | .abs _ | .ldwInd _ _
  | .ldbInd _ _ | .stwInd _ _ | .stbInd _ _ | .ldwInc _ _ | .ldbInc _ _ | .stwInc _ _ | .stbInc _ _
  | .ldwSp _ _ | .ldbSp _ _ | .stwSp _ _ | .stbSp _ _ | .ldwAbs _ _ | .ldbAbs _ _ | .stwAbs _ _
  | .stbAbs _ _ | .popReg _ | .popPs | .nopC5 | .ret | .reti | .pushReg _ | .pushPs | .trap | .jsrR0
  | .jsrAbs _ | .ldwImm _ _ | .ldbImm _ _ | .lslImm _ _ | .lslReg _ _ | .lsrReg _ _ | .lslWt _ _
  | .lsrWt _ _ | .aslImm _ _ | .aslReg _ _ | .asrReg _ _ | .aslWt _ _ | .asrWt _ _ | .rolImm _ _
  | .rolReg _ _ | .rorReg _ _ | .rolWt _ _ | .rorWt _ _ | .roxlImm _ _ | .roxlReg _ _ | .roxrReg _ _
  | .roxlWt _ _ | .roxrWt _ _ | .shReserved _ _ _ _ _ | .btstImm _ _ | .btstReg _ _ | .bchgImm _ _
  | .bchgReg _ _ | .bclrImm _ _ | .bclrReg _ _ | .bsetImm _ _ | .bsetReg _ _ | .bitImmReserved _ _ _
  | .buc _ | .bus _ | .bhi _ | .bls _ | .bcc _ | .bcs _ | .bne _ | .beq _ | .bvc _ | .bvs _ | .bpl _
  | .bmi _ | .bge _ | .blt _ | .bgt _ | .ble _ | .moveR0Sp | .moveSpR0 | .jmpR0 | .jmpAbs _
  | .andPs _ | .orPs _ | .addSp _ | .sqrt | .mulu | .muls | .divu | .divs | .addx | .subx | .negx
  | .nop => true

/-- The length in bytes, by format (R81, R83). -/
def Instr.len : Instr → Nat
  | .move _ _ | .sxt _ | .and _ _ | .test _ | .xor _ _ | .clr _ | .or _ _ | .inv _ | .add _ _
  | .addq _ _ | .sub _ _ | .neg _ | .cmp _ _ | .abs _ | .ldwInd _ _ | .ldbInd _ _ | .stwInd _ _
  | .stbInd _ _ | .ldwInc _ _ | .ldbInc _ _ | .stwInc _ _ | .stbInc _ _ | .popReg _ | .popPs
  | .nopC5 | .ret | .reti | .pushReg _ | .pushPs | .trap | .jsrR0 | .moveR0Sp | .moveSpR0 | .jmpR0
  | .sqrt | .mulu | .muls | .divu | .divs | .addx | .subx | .negx | .nop => 1
  | .ldwSp _ _ | .ldbSp _ _ | .stwSp _ _ | .stbSp _ _ | .ldbImm _ _ | .lslImm _ _ | .lslReg _ _
  | .lsrReg _ _ | .lslWt _ _ | .lsrWt _ _ | .aslImm _ _ | .aslReg _ _ | .asrReg _ _ | .aslWt _ _
  | .asrWt _ _ | .rolImm _ _ | .rolReg _ _ | .rorReg _ _ | .rolWt _ _ | .rorWt _ _ | .roxlImm _ _
  | .roxlReg _ _ | .roxrReg _ _ | .roxlWt _ _ | .roxrWt _ _ | .shReserved _ _ _ _ _ | .btstImm _ _
  | .btstReg _ _ | .bchgImm _ _ | .bchgReg _ _ | .bclrImm _ _ | .bclrReg _ _ | .bsetImm _ _
  | .bsetReg _ _ | .bitImmReserved _ _ _ | .bitRegReserved _ _ _ _ | .buc _ | .bus _ | .bhi _
  | .bls _ | .bcc _ | .bcs _ | .bne _ | .beq _ | .bvc _ | .bvs _ | .bpl _ | .bmi _ | .bge _ | .blt _
  | .bgt _ | .ble _ | .andPs _ | .orPs _ | .addSp _ => 2
  | .ldwAbs _ _ | .ldbAbs _ _ | .stwAbs _ _ | .stbAbs _ _ | .jsrAbs _ | .ldwImm _ _ | .jmpAbs _ => 3

end Sys2Proof
end

