-- ==== Sys2Proof/Decode.lean ====
section
/-! DEFINITION. Decoding, total on any bytes (spec R80 to R96), and then encoding, from the same tables. -/

namespace Sys2Proof

open Sys2Proof.Machine (joinBytes loByte hiByte byteOfNat)

/-! Fields to names (R82). -/

/-- The 2-bit register code (R20). -/
def Reg.ofBits (b : BitVec 2) : Reg :=
  match b.toNat with
  | 0 => .r0
  | 1 => .r1
  | 2 => .r2
  | _ => .r3

/-- RC: 0 = R0, 1 = R1 (R82). -/
def DataReg.ofBits (b : BitVec 1) : DataReg := if b = 0#1 then .r0 else .r1

/-- RI: 0 = R2, 1 = R3 (R82). -/
def IndexReg.ofBits (b : BitVec 1) : IndexReg := if b = 0#1 then .r2 else .r3

/-- The small code: 00 = +2, 01 = +1, 10 = -2, 11 = -1 (R82, R85). -/
def Small.ofBits (b : BitVec 2) : Small :=
  match b.toNat with
  | 0 => .plus2
  | 1 => .plus1
  | 2 => .minus2
  | _ => .minus1

/-! The groups (R84 to R91). -/

/-- Groups 0x0 to 0x4, 0x6 and 0x7 (R84) and group 0x5 (R85). `fb` is `b0[3:2]`. -/
def decodeRegs (group : Nat) (ra : Reg) (fb : BitVec 2) : Instr :=
  let rb := Reg.ofBits fb
  match group with
  | 0 => if ra = rb then .sxt ra else .move ra rb
  | 1 => if ra = rb then .test ra else .and ra rb
  | 2 => if ra = rb then .clr ra else .xor ra rb
  | 3 => if ra = rb then .inv ra else .or ra rb
  | 4 => .add ra rb
  | 5 => .addq ra (Small.ofBits fb)
  | 6 => if ra = rb then .neg ra else .sub ra rb
  | _ => if ra = rb then .abs ra else .cmp ra rb

/-- Groups 0x8 (indirect) and 0x9 (post-increment); `op` is dir and sz, `b0[3:2]` (R86). -/
def decodeIndirect (post : Bool) (op : BitVec 2) (rc : DataReg) (ri : IndexReg) : Instr :=
  match post, op.toNat with
  | false, 0 => .ldwInd rc ri
  | false, 1 => .ldbInd rc ri
  | false, 2 => .stwInd rc ri
  | false, _ => .stbInd rc ri
  | true, 0 => .ldwInc rc ri
  | true, 1 => .ldbInc rc ri
  | true, 2 => .stwInc rc ri
  | true, _ => .stbInc rc ri

/-- Group 0xA, stack relative (R87). -/
def decodeStackRel (op : BitVec 2) (ra : Reg) (m : Byte) : Instr :=
  match op.toNat with
  | 0 => .ldwSp ra m
  | 1 => .ldbSp ra m
  | 2 => .stwSp ra m
  | _ => .stbSp ra m

/-- Group 0xB, absolute (R87). -/
def decodeAbsolute (op : BitVec 2) (ra : Reg) (addr : Word) : Instr :=
  match op.toNat with
  | 0 => .ldwAbs ra addr
  | 1 => .ldbAbs ra addr
  | 2 => .stwAbs ra addr
  | _ => .stbAbs ra addr

/-- Group 0xC (R88); `lo` is `b0[3:0]`. -/
def decodeStack (lo : BitVec 4) (addr : Word) : Instr :=
  match lo.toNat with
  | 0 => .popReg .r0
  | 1 => .popReg .r1
  | 2 => .popReg .r2
  | 3 => .popReg .r3
  | 4 => .popPs
  | 5 => .nopC5
  | 6 => .ret
  | 7 => .reti
  | 8 => .pushReg .r0
  | 9 => .pushReg .r1
  | 10 => .pushReg .r2
  | 11 => .pushReg .r3
  | 12 => .pushPs
  | 13 => .trap
  | 14 => .jsrR0
  | _ => .jsrAbs addr

/-- The shift descriptor (R89, R170). Its register forms are told apart by L/R and W, `b1[4:3]`; `b1[2]` must be 0 (R94). -/
def decodeShift (ra : Reg) (b1 : Byte) : Instr :=
  let fn := b1.extractLsb' 6 2
  let rp := Reg.ofBits (b1.extractLsb' 0 2)
  if b1.getLsbD 5 = false then
    let n := b1.extractLsb' 0 5
    match fn.toNat with
    | 0 => .lslImm ra n
    | 1 => .aslImm ra n
    | 2 => .rolImm ra n
    | _ => .roxlImm ra n
  else if b1.getLsbD 2 = true then
    .shReserved ra fn (b1.extractLsb' 4 1) (b1.extractLsb' 3 1) rp
  else
    match fn.toNat, b1.getLsbD 4, b1.getLsbD 3 with
    | 0, false, false => .lslReg ra rp
    | 0, true, false => .lsrReg ra rp
    | 0, false, true => .lslWt ra rp
    | 0, true, true => .lsrWt ra rp
    | 1, false, false => .aslReg ra rp
    | 1, true, false => .asrReg ra rp
    | 1, false, true => .aslWt ra rp
    | 1, true, true => .asrWt ra rp
    | 2, false, false => .rolReg ra rp
    | 2, true, false => .rorReg ra rp
    | 2, false, true => .rolWt ra rp
    | 2, true, true => .rorWt ra rp
    | _, false, false => .roxlReg ra rp
    | _, true, false => .roxrReg ra rp
    | _, false, true => .roxlWt ra rp
    | _, true, true => .roxrWt ra rp

/-- The bit descriptor (R89, R187), with its two reserved patterns (R94). -/
def decodeBit (ra : Reg) (b1 : Byte) : Instr :=
  let fn := b1.extractLsb' 6 2
  let k := b1.extractLsb' 0 4
  let zero := b1.extractLsb' 2 3
  let rp := Reg.ofBits (b1.extractLsb' 0 2)
  if b1.getLsbD 5 = false then
    if b1.getLsbD 4 = true then .bitImmReserved ra fn k
    else
      match fn.toNat with
      | 0 => .btstImm ra k
      | 1 => .bchgImm ra k
      | 2 => .bclrImm ra k
      | _ => .bsetImm ra k
  else if zero != 0#3 then .bitRegReserved ra fn zero rp
  else
    match fn.toNat with
    | 0 => .btstReg ra rp
    | 1 => .bchgReg ra rp
    | 2 => .bclrReg ra rp
    | _ => .bsetReg ra rp

/-- Group 0xD (R89); `op` is `b0[3:2]`. -/
def decodeImmediate (op : BitVec 2) (ra : Reg) (b1 b2 : Byte) : Instr :=
  match op.toNat with
  | 0 => .ldwImm ra (joinBytes b1 b2)
  | 1 => .ldbImm ra b1
  | 2 => decodeShift ra b1
  | _ => decodeBit ra b1

/-- Group 0xE (R90); `cc` is `b0[3:0]`. -/
def decodeBranch (cc : BitVec 4) (d : Byte) : Instr :=
  match cc.toNat with
  | 0 => .buc d
  | 1 => .bus d
  | 2 => .bhi d
  | 3 => .bls d
  | 4 => .bcc d
  | 5 => .bcs d
  | 6 => .bne d
  | 7 => .beq d
  | 8 => .bvc d
  | 9 => .bvs d
  | 10 => .bpl d
  | 11 => .bmi d
  | 12 => .bge d
  | 13 => .blt d
  | 14 => .bgt d
  | _ => .ble d

/-- Group 0xF (R91); `lo` is `b0[3:0]`. -/
def decodeMisc (lo : BitVec 4) (b1 b2 : Byte) : Instr :=
  match lo.toNat with
  | 0 => .moveR0Sp
  | 1 => .moveSpR0
  | 2 => .jmpR0
  | 3 => .jmpAbs (joinBytes b1 b2)
  | 4 => .andPs b1
  | 5 => .orPs b1
  | 6 => .addSp b1
  | 7 => .sqrt
  | 8 => .mulu
  | 9 => .muls
  | 10 => .divu
  | 11 => .divs
  | 12 => .addx
  | 13 => .subx
  | 14 => .negx
  | _ => .nop

/-- The instruction whose bytes begin `b0 b1 b2`; the bytes beyond its length are not looked at (R96). Every first byte
is assigned (R92), so there is no refusal here: the reserved descriptors decode to instructions of their own (R94). -/
def decodeBytes (b0 b1 b2 : Byte) : Instr :=
  let group := (b0.extractLsb' 4 4).toNat
  let lo := b0.extractLsb' 0 4
  let op := b0.extractLsb' 2 2
  let ra := Reg.ofBits (b0.extractLsb' 0 2)
  let rc := DataReg.ofBits (b0.extractLsb' 0 1)
  let ri := IndexReg.ofBits (b0.extractLsb' 1 1)
  match group with
  | 8 => decodeIndirect false op rc ri
  | 9 => decodeIndirect true op rc ri
  | 10 => decodeStackRel op ra b1
  | 11 => decodeAbsolute op ra (joinBytes b1 b2)
  | 12 => decodeStack lo (joinBytes b1 b2)
  | 13 => decodeImmediate op ra b1 b2
  | 14 => decodeBranch lo b1
  | 15 => decodeMisc lo b1 b2
  | g => decodeRegs g ra op

/-- The length that the first byte fixes (R83). -/
def lengthOfFirstByte (b0 : Byte) : Nat :=
  let n := b0.toNat
  if n ≤ 0x9F then 1
  else if n ≤ 0xAF then 2
  else if n ≤ 0xBF then 3
  else if n ≤ 0xCE then 1
  else if n = 0xCF then 3
  else if n ≤ 0xD3 then 3
  else if n ≤ 0xEF then 2
  else if n ≤ 0xF2 then 1
  else if n = 0xF3 then 3
  else if n ≤ 0xF6 then 2
  else 1

/-- Why a list of bytes holds no instruction. -/
inductive DecodeError where
  /-- the list ends before the instruction does: raised by `decode` only; a fetch always has its bytes. Safe. -/
  | truncated
deriving DecidableEq, Repr

/-- The instruction at the head of a list of bytes, with the rest of the list (R83, R96). -/
def decode (bytes : List Byte) : Except DecodeError (Instr × List Byte) :=
  match bytes with
  | [] => .error .truncated
  | b0 :: rest =>
    let n := lengthOfFirstByte b0
    if bytes.length < n then .error .truncated
    else .ok (decodeBytes b0 (rest.getD 0 0#8) (rest.getD 1 0#8), bytes.drop n)

/-- The three bytes of an instruction whose table bits are `w`. The table numbers the 16 bits of `b0*256 + b1` (R100), so
`b0` is bits 15..8 and `b1` bits 7..0; a third byte counts on from them, bits 23..16. Bits above `nbits` are 0. Where a row
is asked for by its first byte alone, that byte is `w` (log 27). -/
def tableBytes (nbits w : Nat) : Byte × Byte × Byte :=
  if nbits ≤ 8 ∧ w < 256 then (byteOfNat w 0, 0#8, 0#8)
  else
    let v := w % 2 ^ (max nbits 16)
    (byteOfNat v 1, byteOfNat v 0, byteOfNat v 2)

/-- What this decoder reads from an instruction whose table bits are `w` (R100). -/
def decodeTableWord (nbits w : Nat) : Option Instr :=
  match tableBytes nbits w with
  | (b0, b1, b2) =>
    match decode [b0, b1, b2] with
    | .ok (i, _) => some i
    | .error _ => none

/-! The encoder, from the format table (R81, R82, R84 to R91). -/

/-- The 2-bit register code (R20). -/
def Reg.bits : Reg → BitVec 2
  | .r0 => 0#2
  | .r1 => 1#2
  | .r2 => 2#2
  | .r3 => 3#2

/-- RC (R82). -/
def DataReg.bits : DataReg → BitVec 1
  | .r0 => 0#1
  | .r1 => 1#1

/-- RI (R82). -/
def IndexReg.bits : IndexReg → BitVec 1
  | .r2 => 0#1
  | .r3 => 1#1

/-- The small code (R82, R85). -/
def Small.bits : Small → BitVec 2
  | .plus2 => 0#2
  | .plus1 => 1#2
  | .minus2 => 2#2
  | .minus1 => 3#2

/-- Formats RR and Q: `gggg bb aa` (R81). -/
def encRR (g : BitVec 4) (b a : BitVec 2) : List Byte := [g ++ b ++ a]

/-- Format IND: `100p d s i c`, `dsz` being dir and sz (R81). -/
def encIND (g : BitVec 4) (dsz : BitVec 2) (rc : DataReg) (ri : IndexReg) : List Byte := [g ++ dsz ++ ri.bits ++ rc.bits]

/-- Formats SPR and IMB: `gggg d s aa`, then a byte (R81). -/
def encByte (g : BitVec 4) (dsz : BitVec 2) (ra : Reg) (m : Byte) : List Byte := [g ++ dsz ++ ra.bits, m]

/-- Formats ABS and IMW: `gggg d s aa`, then a little-endian word (R81, R54). -/
def encWord (g : BitVec 4) (dsz : BitVec 2) (ra : Reg) (v : Word) : List Byte := [g ++ dsz ++ ra.bits, loByte v, hiByte v]

/-- Formats PPA and M3: an opcode byte, then a little-endian word (R81, R54). -/
def encAddr (b0 : Byte) (addr : Word) : List Byte := [b0, loByte addr, hiByte addr]

/-- Format SH, immediate count: `1101 10 aa`, `ff 0 nnnnn` (R81). -/
def encShiftImm (fn : BitVec 2) (ra : Reg) (n : BitVec 5) : List Byte := [0xD#4 ++ 2#2 ++ ra.bits, fn ++ 0#1 ++ n]

/-- Format SH, register count: `1101 10 aa`, `ff 1 l w z pp`, z being 0 (R81, R94). -/
def encShiftReg (fn : BitVec 2) (l w z : BitVec 1) (ra rp : Reg) : List Byte :=
  [0xD#4 ++ 2#2 ++ ra.bits, fn ++ 1#1 ++ l ++ w ++ z ++ rp.bits]

/-- Format BIT, immediate bit number: `1101 11 aa`, `ff 0 z bbbb`, z being 0 (R81, R94). -/
def encBitImm (fn : BitVec 2) (z : BitVec 1) (ra : Reg) (k : BitVec 4) : List Byte :=
  [0xD#4 ++ 3#2 ++ ra.bits, fn ++ 0#1 ++ z ++ k]

/-- Format BIT, register bit number: `1101 11 aa`, `ff 1 zzz pp`, zzz being 000 (R81, R94). -/
def encBitReg (fn : BitVec 2) (zero : BitVec 3) (ra rp : Reg) : List Byte :=
  [0xD#4 ++ 3#2 ++ ra.bits, fn ++ 1#1 ++ zero ++ rp.bits]

/-- Format BR: `1110 cccc`, then the displacement (R81, R90). -/
def encBranch (cc : BitVec 4) (d : Byte) : List Byte := [0xE#4 ++ cc, d]

/-- The bytes of a well-formed instruction, in memory order (R81, R84 to R91). -/
def encode : Instr → List Byte
  | .move ra rb => encRR 0x0#4 rb.bits ra.bits
  | .sxt ra => encRR 0x0#4 ra.bits ra.bits
  | .and ra rb => encRR 0x1#4 rb.bits ra.bits
  | .test ra => encRR 0x1#4 ra.bits ra.bits
  | .xor ra rb => encRR 0x2#4 rb.bits ra.bits
  | .clr ra => encRR 0x2#4 ra.bits ra.bits
  | .or ra rb => encRR 0x3#4 rb.bits ra.bits
  | .inv ra => encRR 0x3#4 ra.bits ra.bits
  | .add ra rb => encRR 0x4#4 rb.bits ra.bits
  | .addq ra q => encRR 0x5#4 q.bits ra.bits
  | .sub ra rb => encRR 0x6#4 rb.bits ra.bits
  | .neg ra => encRR 0x6#4 ra.bits ra.bits
  | .cmp ra rb => encRR 0x7#4 rb.bits ra.bits
  | .abs ra => encRR 0x7#4 ra.bits ra.bits
  | .ldwInd rc ri => encIND 0x8#4 0#2 rc ri
  | .ldbInd rc ri => encIND 0x8#4 1#2 rc ri
  | .stwInd rc ri => encIND 0x8#4 2#2 rc ri
  | .stbInd rc ri => encIND 0x8#4 3#2 rc ri
  | .ldwInc rc ri => encIND 0x9#4 0#2 rc ri
  | .ldbInc rc ri => encIND 0x9#4 1#2 rc ri
  | .stwInc rc ri => encIND 0x9#4 2#2 rc ri
  | .stbInc rc ri => encIND 0x9#4 3#2 rc ri
  | .ldwSp ra m => encByte 0xA#4 0#2 ra m
  | .ldbSp ra m => encByte 0xA#4 1#2 ra m
  | .stwSp ra m => encByte 0xA#4 2#2 ra m
  | .stbSp ra m => encByte 0xA#4 3#2 ra m
  | .ldwAbs ra addr => encWord 0xB#4 0#2 ra addr
  | .ldbAbs ra addr => encWord 0xB#4 1#2 ra addr
  | .stwAbs ra addr => encWord 0xB#4 2#2 ra addr
  | .stbAbs ra addr => encWord 0xB#4 3#2 ra addr
  | .popReg ra => encRR 0xC#4 0#2 ra.bits
  | .popPs => [0xC4#8]
  | .nopC5 => [0xC5#8]
  | .ret => [0xC6#8]
  | .reti => [0xC7#8]
  | .pushReg ra => encRR 0xC#4 2#2 ra.bits
  | .pushPs => [0xCC#8]
  | .trap => [0xCD#8]
  | .jsrR0 => [0xCE#8]
  | .jsrAbs addr => encAddr 0xCF#8 addr
  | .ldwImm ra imm => encWord 0xD#4 0#2 ra imm
  | .ldbImm ra imm => encByte 0xD#4 1#2 ra imm
  | .lslImm ra n => encShiftImm 0#2 ra n
  | .lslReg ra rp => encShiftReg 0#2 0#1 0#1 0#1 ra rp
  | .lsrReg ra rp => encShiftReg 0#2 1#1 0#1 0#1 ra rp
  | .lslWt ra rp => encShiftReg 0#2 0#1 1#1 0#1 ra rp
  | .lsrWt ra rp => encShiftReg 0#2 1#1 1#1 0#1 ra rp
  | .aslImm ra n => encShiftImm 1#2 ra n
  | .aslReg ra rp => encShiftReg 1#2 0#1 0#1 0#1 ra rp
  | .asrReg ra rp => encShiftReg 1#2 1#1 0#1 0#1 ra rp
  | .aslWt ra rp => encShiftReg 1#2 0#1 1#1 0#1 ra rp
  | .asrWt ra rp => encShiftReg 1#2 1#1 1#1 0#1 ra rp
  | .rolImm ra n => encShiftImm 2#2 ra n
  | .rolReg ra rp => encShiftReg 2#2 0#1 0#1 0#1 ra rp
  | .rorReg ra rp => encShiftReg 2#2 1#1 0#1 0#1 ra rp
  | .rolWt ra rp => encShiftReg 2#2 0#1 1#1 0#1 ra rp
  | .rorWt ra rp => encShiftReg 2#2 1#1 1#1 0#1 ra rp
  | .roxlImm ra n => encShiftImm 3#2 ra n
  | .roxlReg ra rp => encShiftReg 3#2 0#1 0#1 0#1 ra rp
  | .roxrReg ra rp => encShiftReg 3#2 1#1 0#1 0#1 ra rp
  | .roxlWt ra rp => encShiftReg 3#2 0#1 1#1 0#1 ra rp
  | .roxrWt ra rp => encShiftReg 3#2 1#1 1#1 0#1 ra rp
  | .shReserved ra fn lr w rp => encShiftReg fn lr w 1#1 ra rp
  | .btstImm ra k => encBitImm 0#2 0#1 ra k
  | .btstReg ra rp => encBitReg 0#2 0#3 ra rp
  | .bchgImm ra k => encBitImm 1#2 0#1 ra k
  | .bchgReg ra rp => encBitReg 1#2 0#3 ra rp
  | .bclrImm ra k => encBitImm 2#2 0#1 ra k
  | .bclrReg ra rp => encBitReg 2#2 0#3 ra rp
  | .bsetImm ra k => encBitImm 3#2 0#1 ra k
  | .bsetReg ra rp => encBitReg 3#2 0#3 ra rp
  | .bitImmReserved ra fn k => encBitImm fn 1#1 ra k
  | .bitRegReserved ra fn zero rp => encBitReg fn zero ra rp
  | .buc d => encBranch 0x0#4 d
  | .bus d => encBranch 0x1#4 d
  | .bhi d => encBranch 0x2#4 d
  | .bls d => encBranch 0x3#4 d
  | .bcc d => encBranch 0x4#4 d
  | .bcs d => encBranch 0x5#4 d
  | .bne d => encBranch 0x6#4 d
  | .beq d => encBranch 0x7#4 d
  | .bvc d => encBranch 0x8#4 d
  | .bvs d => encBranch 0x9#4 d
  | .bpl d => encBranch 0xA#4 d
  | .bmi d => encBranch 0xB#4 d
  | .bge d => encBranch 0xC#4 d
  | .blt d => encBranch 0xD#4 d
  | .bgt d => encBranch 0xE#4 d
  | .ble d => encBranch 0xF#4 d
  | .moveR0Sp => [0xF0#8]
  | .moveSpR0 => [0xF1#8]
  | .jmpR0 => [0xF2#8]
  | .jmpAbs addr => encAddr 0xF3#8 addr
  | .andPs imm => [0xF4#8, imm]
  | .orPs imm => [0xF5#8, imm]
  | .addSp imm => [0xF6#8, imm]
  | .sqrt => [0xF7#8]
  | .mulu => [0xF8#8]
  | .muls => [0xF9#8]
  | .divu => [0xFA#8]
  | .divs => [0xFB#8]
  | .addx => [0xFC#8]
  | .subx => [0xFD#8]
  | .negx => [0xFE#8]
  | .nop => [0xFF#8]

end Sys2Proof
end

