-- ==== Sys2Proof/Machine/Fetch.lean ====
section
/-! DEFINITION. Instruction boundaries and fetching (spec R12, R66, R96, R245 to R247, R270, R271, R283). -/

namespace Sys2Proof.Machine

/-- What the platform presents at this boundary; nothing once its inputs are used up (R245, log 10). -/
def State.boundary (s : State) : BoundaryInput :=
  match s.inputs with
  | [] => .quiet
  | input :: _ => input

/-- The boundary passed: its input is used up, and a byte prefetched before it is no longer waiting (R245, R283). -/
def State.passBoundary (s : State) : State := { s with inputs := s.inputs.tail, prefetch := none }

/-- The next draw epoch: the free values of the next step are other draws (R16, log 22). -/
def State.nextEpoch (s : State) : State := { s with epoch := s.epoch + 1 }

/-- The first byte of the instruction at the pc (R12). Where a store changed it after it may have been prefetched, the
old or the new byte, unspecified which (R66, R283, log 21). -/
def State.opcodeByte (s : State) : Byte :=
  match s.prefetch with
  | none => s.readByte .fetch s.pc
  | some old => if Config.freeBit s.epoch .prefetchOld then old else s.readByte .fetch s.pc

/-- The instruction at the pc (R12, R96). The operand bytes are always fetched afresh (R283). -/
def State.fetched (s : State) : Instr :=
  decodeBytes s.opcodeByte (s.readByte .fetch (s.pc + 1#16)) (s.readByte .fetch (s.pc + 2#16))

/-- An external interrupt is accepted at this boundary: the request is asserted and I is 1 (R245). -/
def State.interrupted (s : State) : Bool := s.boundary == .irq && s.flag .i

/-- An accepted interrupt (R245): trap entry with the address of the instruction that would have run next. -/
def State.takeInterrupt (s : State) : State := (s.passBoundary.trapEntry s.pc Config.extIntVector).nextEpoch

/-- The bytes that the host loads (R270), in their order. -/
def loadBytes (m : Memory) (load : List (Word × Byte)) : Memory :=
  load.foldl (fun acc cell => Memory.write acc cell.1.toNat cell.2) m

/-- A reset (R270, R271): the pc is `RESET_PC`, the registers and PS are as the reset leaves them, and memory is what it
was with the bytes the host loads (log 31). -/
def State.takeReset (s : State) (regs : ResetState) (load : List (Word × Byte)) : State :=
  { s.passBoundary.nextEpoch with
    r0 := regs.r0
    r1 := regs.r1
    r2 := regs.r2
    r3 := regs.r3
    sp := regs.sp
    ps := regs.ps
    pc := Config.resetPc
    mem := loadBytes s.mem load }

/-- The end of an instruction's step. -/
def endStep (r : Result) : Result :=
  match r with
  | .next t => .next t.nextEpoch
  | .fault f => .fault f
  | .refused f => .refused f

/-- An instruction placed at the pc from outside the machine, for the next fetch to read: its three bytes in memory, at
addresses that are memory. -/
def State.placeBytes (s : State) (b0 b1 b2 : Byte) : State :=
  let held (a : Word) : Bool := s.region a == .ram || s.region a == .rom
  let fetchable := held s.pc && held (s.pc + 1#16) && held (s.pc + 2#16)
  let entry (a : Word) : MapEntry := { base := a.toNat, size := 1, kind := .ram }
  { s with
    mem := loadBytes s.mem [(s.pc, b0), (s.pc + 1#16, b1), (s.pc + 2#16, b2)]
    map := if fetchable then s.map else entry s.pc :: entry (s.pc + 1#16) :: entry (s.pc + 2#16) :: s.map
    prefetch := none }

/-- The next boundary made one at which an instruction runs: a reset or an accepted request waiting there gives way to
nothing. -/
def State.quietBoundary (s : State) : State :=
  match s.boundary with
  | .reset _ _ => { s with inputs := .quiet :: s.inputs.tail }
  | .irq => if s.flag .i then { s with inputs := .quiet :: s.inputs.tail } else s
  | .quiet => s

end Sys2Proof.Machine
end

