-- ==== Sys2Proof/Machine/Step.lean ====
section
/-! DEFINITION. One step of the machine: one instruction boundary, and what happens at it (spec R245, R247, R277). -/

namespace Sys2Proof.Machine

/-- At a boundary a reset overrides everything (R247); else an asserted request with I = 1 enters its handler (R245); else
the instruction at the pc runs (R96). -/
def step (s : State) : Host.Outcome State Fault Refusal :=
  match s.boundary with
  | .reset regs load => .next (s.takeReset regs load)
  | _ => if s.interrupted then .next s.takeInterrupt else endStep (exec s.fetched s.passBoundary)

/-- The state whose next step fetches and runs the instruction with these table bits (R100): its bytes at the pc, and
nothing waiting at the boundary (logs 27, 28). -/
def State.withFetchWord (s : State) (nbits w : Nat) : State :=
  match Sys2Proof.tableBytes nbits w with
  | (b0, b1, b2) => (s.placeBytes b0 b1 b2).quietBoundary

end Sys2Proof.Machine
end

