-- ==== Sys2Proof/Machine/Cycles.lean ====
section
/-! DEFINITION. The cycle table as a cost annotation (spec R185, R280). No state and no other rule depends on it. -/

namespace Sys2Proof.Machine

/-- The cycles of a shift or weight form: 4 and one for each place moved (R185); none given where the count is `SH_NEG16`. -/
def shiftCycles (count : Option Int) : Option Nat := count.map (fun n => 4 + n.natAbs)

/-- The cycles of a branch: 3 where it is taken, 2 where not (R280). -/
def State.branchCycles (s : State) (c : Cond) : Option Nat := some (if s.holds c then 3 else 2)

/-- The cycles of a divide: 7 where the divisor is zero (R280). DESIGN CHOICE: R280 does not say whether those 7 include the
trap entry; here they are the cost of the whole instruction, its entry included. Unsafe (log 35). -/
def State.divideCycles (s : State) (n : Nat) : Option Nat := some (if s.reg .r1 = 0#16 then 7 else n)

/-- The cycles that an instruction takes from a state (R280); none where the source gives no number. -/
def State.cycles (s : State) (i : Instr) : Option Nat :=
  match i with
  | .move _ _ | .sxt _ | .and _ _ | .test _ | .xor _ _ | .clr _ | .or _ _ | .inv _ | .add _ _ | .addq _ _
  | .sub _ _ | .neg _ | .cmp _ _ | .abs _ | .nopC5 | .addx | .subx | .negx | .nop => some 1
  | .ldbInd _ _ | .stbInd _ _ | .ldbInc _ _ | .stbInc _ _ | .popPs | .pushPs | .ldbImm _ _ | .moveR0Sp
  | .moveSpR0 | .jmpR0 | .andPs _ | .orPs _ | .addSp _ => some 2
  | .ldwInd _ _ | .stwInd _ _ | .ldwInc _ _ | .stwInc _ _ | .ldbSp _ _ | .stbSp _ _ | .popReg _ | .pushReg _
  | .ldwImm _ _ | .btstImm _ _ | .btstReg _ _ | .bchgImm _ _ | .bchgReg _ _ | .bclrImm _ _ | .bclrReg _ _
  | .bsetImm _ _ | .bsetReg _ _ => some 3
  | .ldwSp _ _ | .stwSp _ _ | .ldbAbs _ _ | .stbAbs _ _ | .ret | .jsrR0 | .jmpAbs _ => some 4
  | .ldwAbs _ _ | .stwAbs _ _ | .reti => some 5
  | .trap | .jsrAbs _ => some 6
  | .sqrt | .mulu => some 18
  | .muls => some 19
  | .shReserved _ _ _ _ _ | .bitImmReserved _ _ _ | .bitRegReserved _ _ _ _ => none
  | .lslImm _ n => shiftCycles (some (countImm n))
  | .lslReg _ rp => shiftCycles (some (s.countLeft rp))
  | .lsrReg _ rp => shiftCycles (s.countRight rp)
  | .lslWt _ rp => shiftCycles (some (s.countLeft rp))
  | .lsrWt _ rp => shiftCycles (s.countRight rp)
  | .aslImm _ n => shiftCycles (some (countImm n))
  | .aslReg _ rp => shiftCycles (some (s.countLeft rp))
  | .asrReg _ rp => shiftCycles (s.countRight rp)
  | .aslWt _ rp => shiftCycles (some (s.countLeft rp))
  | .asrWt _ rp => shiftCycles (s.countRight rp)
  | .rolImm _ n => shiftCycles (some (countImm n))
  | .rolReg _ rp => shiftCycles (some (s.countLeft rp))
  | .rorReg _ rp => shiftCycles (s.countRight rp)
  | .rolWt _ rp => shiftCycles (some (s.countLeft rp))
  | .rorWt _ rp => shiftCycles (s.countRight rp)
  | .roxlImm _ n => shiftCycles (some (countImm n))
  | .roxlReg _ rp => shiftCycles (some (s.countLeft rp))
  | .roxrReg _ rp => shiftCycles (s.countRight rp)
  | .roxlWt _ rp => shiftCycles (some (s.countLeft rp))
  | .roxrWt _ rp => shiftCycles (s.countRight rp)
  | .buc _ => s.branchCycles .uc
  | .bus _ => s.branchCycles .us
  | .bhi _ => s.branchCycles .hi
  | .bls _ => s.branchCycles .ls
  | .bcc _ => s.branchCycles .cc
  | .bcs _ => s.branchCycles .cs
  | .bne _ => s.branchCycles .ne
  | .beq _ => s.branchCycles .eq
  | .bvc _ => s.branchCycles .vc
  | .bvs _ => s.branchCycles .vs
  | .bpl _ => s.branchCycles .pl
  | .bmi _ => s.branchCycles .mi
  | .bge _ => s.branchCycles .ge
  | .blt _ => s.branchCycles .lt
  | .bgt _ => s.branchCycles .gt
  | .ble _ => s.branchCycles .le
  | .divu => s.divideCycles 18
  | .divs => s.divideCycles 19

end Sys2Proof.Machine
end

