-- ==== Sys2Proof/Safety.lean ====
section
/-! DEFINITION. The terms that claims are stated in: what a step leaves unchanged, what it wrote, which registers, flags
and bytes an instruction may write (spec R21, R22, R35, R52, R57, R241), what every step keeps, and what a run is. -/

namespace Sys2Proof.Machine

/-! What is unchanged from one state to another. -/

/-- Every general register but those listed. -/
def RegsKept (s t : State) (written : List Reg) : Prop := ∀ r, r ∉ written → t.reg r = s.reg r

/-- Every flag of PS but those listed. -/
def FlagsKept (s t : State) (written : List Flag) : Prop := ∀ f, f ∉ written → t.flag f = s.flag f

/-- What every address but those listed reads as, for data and for a fetch. -/
def MemKeptBut (s t : State) (written : List Word) : Prop := ∀ k a, a ∉ written → t.readByte k a = s.readByte k a

/-- What the platform gives: the memory map, what it presents at the coming boundaries, and the draw epoch. -/
def PlatformKept (s t : State) : Prop := t.map = s.map ∧ t.inputs = s.inputs ∧ t.epoch = s.epoch

/-- All but the registers, SP, the pc and PS: every byte of memory, what devices received, the prefetched byte, and what
the platform gives. -/
def NoStore (s t : State) : Prop :=
  MemKeptBut s t [] ∧ t.devOut = s.devOut ∧ t.prefetch = s.prefetch ∧ PlatformKept s t

/-- All but the listed registers and flags and the pc. -/
def OnlyRegsAndFlags (s t : State) (regs : List Reg) (flags : List Flag) : Prop :=
  RegsKept s t regs ∧ FlagsKept s t flags ∧ t.sp = s.sp ∧ NoStore s t

/-! What was written. -/

/-- N is bit 15 of the value and Z says that it is 0 (R14). -/
def NZOf (t : State) (v : Word) : Prop := t.flag .n = decide (32768 ≤ v.toNat) ∧ t.flag .z = decide (v.toNat = 0)

/-- The flags of `LogicFlags` of a value (R14): N and Z from it, V and C clear. -/
def LogicFlagsOf (t : State) (v : Word) : Prop := NZOf t v ∧ t.flag .v = false ∧ t.flag .c = false

/-- The flags of `ClearArith` (R14). -/
def ArithFlagsClear (t : State) : Prop :=
  t.flag .n = false ∧ t.flag .z = false ∧ t.flag .v = false ∧ t.flag .x = false ∧ t.flag .c = false

/-- The byte at an address after `n` was stored there (R52): `n` where it is ram, as before where it is not. -/
def ByteAt (s t : State) (a : Word) (n : Nat) : Prop :=
  ∀ k, (s.region a = .ram → (t.readByte k a).toNat = n) ∧ (s.region a ≠ .ram → t.readByte k a = s.readByte k a)

/-- What devices receive of a byte store (R58). -/
def byteToDevices (s : State) (a : Word) (v : Byte) : List DeviceWrite :=
  if s.region a = .device then [.byte a v] else []

/-- What devices receive of a word store (R58, R60). -/
def wordToDevices (s : State) (a v : Word) : List DeviceWrite :=
  if s.region a = .device ∧ s.region (a + 1#16) = .device then [.word a v]
  else byteToDevices s a (loByte v) ++ byteToDevices s (a + 1#16) (hiByte v)

/-- `MemWrite(a, 1, v)` and no other write (R52). -/
def ByteStored (s t : State) (a : Word) (v : Byte) : Prop :=
  MemKeptBut s t [a] ∧ ByteAt s t a v.toNat ∧ t.devOut = s.devOut ++ byteToDevices s a v

/-- `MemWrite(a, 2, v)` and no other write (R52, R53): little-endian, the second address modulo 2^16. -/
def WordStored (s t : State) (a v : Word) : Prop :=
  MemKeptBut s t [a, a + 1#16] ∧ ByteAt s t a (v.toNat % 256) ∧ ByteAt s t (a + 1#16) (v.toNat / 256) ∧
    t.devOut = s.devOut ++ wordToDevices s a v

/-- The opcode byte that may have been fetched before a store (R66, R283): the old byte at the pc, exactly where the store
changed it. -/
def PrefetchAfterStore (s t : State) : Prop :=
  ∀ old, t.prefetch = some old ↔ (t.readByte .fetch t.pc ≠ s.readByte .fetch t.pc ∧ old = s.readByte .fetch t.pc)

/-- `TrapEntry(ret, vec)` (R241) from `s`, where PS is `ps` as it is stacked: the three-byte frame below SP, I clear, the
pc at the handler, and nothing else changed but flags. -/
def TrapEntered (s t : State) (ps : Byte) (ret vec : Word) : Prop :=
  t.pc = vec ∧ t.sp = s.sp - 3#16 ∧ t.flag .i = false ∧ (∀ f, f ≠ .i → t.flag f = PS.get ps f) ∧ RegsKept s t [] ∧
    MemKeptBut s t [s.sp - 3#16, s.sp - 2#16, s.sp - 1#16] ∧
    ByteAt s t (s.sp - 3#16) ps.toNat ∧ ByteAt s t (s.sp - 2#16) (ret.toNat % 256) ∧
    ByteAt s t (s.sp - 1#16) (ret.toNat / 256) ∧
    t.devOut = s.devOut ++ wordToDevices s (s.sp - 2#16) ret ++ byteToDevices s (s.sp - 3#16) ps

/-- The pc `len` bytes on, modulo 2^16 (R24). -/
def FallsThrough (s t : State) (len : Nat) : Prop := t.pc.toNat = (s.pc.toNat + len) % 65536

/-- What every `LogicFlags` instruction on registers leaves (R110): N, Z, V and C from the named register, the next
instruction, and nothing else changed. -/
def LogicWritten (s t : State) (ra : Reg) (len : Nat) : Prop :=
  LogicFlagsOf t (t.reg ra) ∧ FallsThrough s t len ∧ OnlyRegsAndFlags s t [ra] [.n, .z, .v, .c]

/-- What every addition and subtraction leaves beside C and V (R120, R121): N and Z from the named register, X a copy of C,
the next instruction, and nothing else changed. -/
def ArithWritten (s t : State) (ra : Reg) : Prop :=
  NZOf t (t.reg ra) ∧ t.flag .x = t.flag .c ∧ FallsThrough s t 1 ∧ OnlyRegsAndFlags s t [ra] [.n, .z, .v, .x, .c]

/-- What the extended forms leave beside C and V (R126): N from R0, the sticky Z, X a copy of C, the next instruction, and
nothing else changed. -/
def ExtendedWritten (s t : State) : Prop :=
  t.flag .n = decide (32768 ≤ (t.reg .r0).toNat) ∧ t.flag .z = (s.flag .z && decide ((t.reg .r0).toNat = 0)) ∧
    t.flag .x = t.flag .c ∧ FallsThrough s t 1 ∧ OnlyRegsAndFlags s t [.r0] [.n, .z, .v, .x, .c]

/-- An exact result that 16 signed bits do not hold (R14, R30). -/
def SignedOverflow (x : Int) : Prop := x < -32768 ∨ 32767 < x

/-- What a store that falls through leaves beside memory, the registers and the flags (R24, R66). -/
def StoreRetired (s t : State) (len : Nat) : Prop := FallsThrough s t len ∧ PrefetchAfterStore s t ∧ PlatformKept s t

/-- The constant of ADDQ (R122). -/
def smallInt : Small → Int
  | .plus2 => 2
  | .plus1 => 1
  | .minus2 => -2
  | .minus1 => -1

/-- The low five bits as a signed number (R170). -/
def signed5 (v : Nat) : Int := if v % 32 < 16 then (v % 32 : Nat) else ((v % 32 : Nat) : Int) - 32

/-! How an instruction is written, how long it is and what it costs (R83, R96, R280). -/

/-- The length in bytes and the cycles of an instruction in a state (R83, R280). -/
def Costs (s : State) (i : Instr) (len cycles : Nat) : Prop := i.len = len ∧ s.cycles i = some cycles

/-- `i` is the one-byte instruction `b0`, and takes so many cycles. -/
def OneByte (s : State) (i : Instr) (b0 cycles : Nat) : Prop :=
  (∀ b1 b2, decodeBytes (BitVec.ofNat 8 b0) b1 b2 = i) ∧ Costs s i 1 cycles

/-- `i` is the two-byte instruction `b0 b1`, and takes so many cycles. -/
def TwoBytes (s : State) (i : Instr) (b0 b1 cycles : Nat) : Prop :=
  (∀ b2, decodeBytes (BitVec.ofNat 8 b0) (BitVec.ofNat 8 b1) b2 = i) ∧ Costs s i 2 cycles

/-- `i` is the three-byte instruction `b0` with the 16-bit operand, low byte first (R54), and takes so many cycles. -/
def ThreeBytes (s : State) (i : Instr) (b0 : Nat) (operand : Word) (cycles : Nat) : Prop :=
  (∀ b1 b2 : Byte, b1.toNat + 256 * b2.toNat = operand.toNat → decodeBytes (BitVec.ofNat 8 b0) b1 b2 = i) ∧
    Costs s i 3 cycles

/-! What the shift, bit and branch forms do. -/

/-- What a shift or rotate leaves beside RA, C, X and V (R172): N and Z from RA, the next instruction, and nothing else
changed. -/
def ShiftWritten (s t : State) (ra : Reg) : Prop :=
  NZOf t (t.reg ra) ∧ FallsThrough s t 2 ∧ OnlyRegsAndFlags s t [ra] [.n, .z, .v, .x, .c]

/-- No movement (R172): the register and X are kept, V and C clear. -/
def NotMoved (s t : State) (ra : Reg) : Prop :=
  t.reg ra = s.reg ra ∧ t.flag .v = false ∧ t.flag .c = false ∧ t.flag .x = s.flag .x

/-- A left shift by `k` places, 1 to 15 (R173, R174): V tells that the top `k + 1` bits were not all equal. -/
def ShiftedLeft (s t : State) (ra : Reg) (k : Nat) : Prop :=
  (t.reg ra).toNat = (s.reg ra).toNat * 2 ^ k % 65536 ∧ t.flag .c = (s.reg ra).getLsbD (16 - k) ∧
    t.flag .x = t.flag .c ∧ (t.flag .v = false ↔ ∀ j, j ≤ k → (s.reg ra).getLsbD (15 - j) = (s.reg ra).getLsbD 15)

/-- LSL or LSR with the effective count `n` (R172 to R174). -/
def LogicalShifted (s t : State) (ra : Reg) (n : Int) : Prop :=
  ShiftWritten s t ra ∧ (n = 0 → NotMoved s t ra) ∧ (0 < n → ShiftedLeft s t ra n.natAbs) ∧
    (n < 0 → (t.reg ra).toNat = (s.reg ra).toNat / 2 ^ n.natAbs ∧ t.flag .c = (s.reg ra).getLsbD (n.natAbs - 1) ∧
      t.flag .x = t.flag .c ∧ t.flag .v = false)

/-- ASL or ASR with the effective count `n` (R172 to R174). -/
def ArithmeticShifted (s t : State) (ra : Reg) (n : Int) : Prop :=
  ShiftWritten s t ra ∧ (n = 0 → NotMoved s t ra) ∧ (0 < n → ShiftedLeft s t ra n.natAbs) ∧
    (n < 0 → (t.reg ra).toInt = (s.reg ra).toInt / 2 ^ n.natAbs ∧ t.flag .c = (s.reg ra).getLsbD (n.natAbs - 1) ∧
      t.flag .x = t.flag .c ∧ t.flag .v = false)

/-- ROL or ROR with the effective count `n` (R172 to R174): X is kept. -/
def Rotated (s t : State) (ra : Reg) (n : Int) : Prop :=
  ShiftWritten s t ra ∧ t.flag .x = s.flag .x ∧ (n = 0 → NotMoved s t ra) ∧
    (0 < n → (t.reg ra).toNat = (s.reg ra).toNat * 2 ^ n.natAbs % 65536 + (s.reg ra).toNat / 2 ^ (16 - n.natAbs) ∧
      t.flag .c = (s.reg ra).getLsbD (16 - n.natAbs) ∧ t.flag .v = false) ∧
    (n < 0 → (t.reg ra).toNat = (s.reg ra).toNat % 2 ^ n.natAbs * 2 ^ (16 - n.natAbs) + (s.reg ra).toNat / 2 ^ n.natAbs ∧
      t.flag .c = (s.reg ra).getLsbD (n.natAbs - 1) ∧ t.flag .v = false)

/-- A 17-bit value rotated left by `k` places, at most 17. -/
def rotate17 (w k : Nat) : Nat := w * 2 ^ k % 131072 + w / 2 ^ (17 - k)

/-- ROXL or ROXR with the effective count `n` (R172 to R174): leftward X is above the operand, rightward below it. -/
def RotatedThroughX (s t : State) (ra : Reg) (n : Int) : Prop :=
  ShiftWritten s t ra ∧ (n = 0 → NotMoved s t ra) ∧
    (0 < n → t.flag .v = false ∧ t.flag .x = t.flag .c ∧
      65536 * (t.flag .c).toNat + (t.reg ra).toNat = rotate17 (65536 * (s.flag .x).toNat + (s.reg ra).toNat) n.natAbs) ∧
    (n < 0 → t.flag .v = false ∧ t.flag .x = t.flag .c ∧
      2 * (t.reg ra).toNat + (t.flag .c).toNat = rotate17 (2 * (s.reg ra).toNat + (s.flag .x).toNat) (17 - n.natAbs))

/-- A weight form with the effective count `n` (R183): nothing is said of the weight of a left movement. -/
def Weighed (s t : State) (ra : Reg) (n : Int) : Prop :=
  (n ≤ 0 → (t.reg ra).toNat = ((List.range n.natAbs).filter (fun j => (s.reg ra).getLsbD j)).length) ∧
    t.flag .n = false ∧ t.flag .v = false ∧ t.flag .x = false ∧ t.flag .z = decide ((t.reg ra).toNat = 0) ∧
    t.flag .c = decide ((t.reg ra).toNat % 2 = 1) ∧ FallsThrough s t 2 ∧ OnlyRegsAndFlags s t [ra] [.n, .z, .v, .x, .c]

/-- A bit instruction on bit `k` that leaves it `b` (R187): Z from the bit as it was, every other bit kept. -/
def BitWritten (s t : State) (ra : Reg) (k : Nat) (b : Bool) : Prop :=
  t.flag .z = (!(s.reg ra).getLsbD k) ∧
    (∀ j, j < 16 → (t.reg ra).getLsbD j = if j = k then b else (s.reg ra).getLsbD j) ∧
    FallsThrough s t 2 ∧ OnlyRegsAndFlags s t [ra] [.z]

/-- `i` is the branch `b0 d`, of 3 cycles where its condition holds and 2 where not (R90, R202). -/
def BranchBytes (s : State) (i : Instr) (b0 : Nat) (d : Byte) (taken : Prop) : Prop :=
  (taken → TwoBytes s i b0 d.toNat 3) ∧ (¬taken → TwoBytes s i b0 d.toNat 2)

/-- What a branch does (R202): taken to the address of the next instruction plus the signed displacement, or not taken;
nothing but the pc changes. -/
def Branched (s t : State) (d : Byte) (taken : Prop) : Prop :=
  (taken → (t.pc.toNat : Int) = (s.pc.toNat + 2 + d.toInt) % 65536) ∧ (¬taken → FallsThrough s t 2) ∧
    OnlyRegsAndFlags s t [] []

/-! What an instruction may write. -/

/-- The general registers that an instruction may write (R20, R21 and each Operation). -/
def regsWritten : Instr → List Reg
  | .move ra _ | .sxt ra | .and ra _ | .xor ra _ | .clr ra | .or ra _ | .inv ra | .add ra _ | .addq ra _ | .sub ra _
  | .neg ra | .abs ra | .ldwSp ra _ | .ldbSp ra _ | .ldwAbs ra _ | .ldbAbs ra _ | .popReg ra | .ldwImm ra _
  | .ldbImm ra _ | .lslImm ra _ | .lslReg ra _ | .lsrReg ra _ | .lslWt ra _ | .lsrWt ra _ | .aslImm ra _
  | .aslReg ra _ | .asrReg ra _ | .aslWt ra _ | .asrWt ra _ | .rolImm ra _ | .rolReg ra _ | .rorReg ra _
  | .rolWt ra _ | .rorWt ra _ | .roxlImm ra _ | .roxlReg ra _ | .roxrReg ra _ | .roxlWt ra _ | .roxrWt ra _
  | .bchgImm ra _ | .bchgReg ra _ | .bclrImm ra _ | .bclrReg ra _ | .bsetImm ra _ | .bsetReg ra _ => [ra]
  | .ldwInd rc _ | .ldbInd rc _ => [dataReg rc]
  | .ldwInc rc ri | .ldbInc rc ri => [dataReg rc, indexReg ri]
  | .stwInc _ ri | .stbInc _ ri => [indexReg ri]
  | .moveR0Sp | .addx | .subx | .negx => [.r0]
  | .mulu | .divu => [.r2, .r3]
  | .muls => [.r0, .r2, .r3]
  | .divs => [.r1, .r2, .r3]
  | .sqrt => [.r0, .r1, .r3]
  | .test _ | .cmp _ _ | .stwInd _ _ | .stbInd _ _ | .stwSp _ _ | .stbSp _ _ | .stwAbs _ _ | .stbAbs _ _ | .popPs
  | .nopC5 | .ret | .reti | .pushReg _ | .pushPs | .trap | .jsrR0 | .jsrAbs _ | .shReserved _ _ _ _ _ | .btstImm _ _
  | .btstReg _ _ | .bitImmReserved _ _ _ | .bitRegReserved _ _ _ _ | .buc _ | .bus _ | .bhi _ | .bls _ | .bcc _
  | .bcs _ | .bne _ | .beq _ | .bvc _ | .bvs _ | .bpl _ | .bmi _ | .bge _ | .blt _ | .bgt _ | .ble _ | .moveSpR0
  | .jmpR0 | .jmpAbs _ | .andPs _ | .orPs _ | .addSp _ | .nop => []

/-- The flags that an instruction may write in a state (R35); a divide by zero is a trap entry (R243). -/
def flagsWritten (s : State) : Instr → List Flag
  | .move _ _ | .sxt _ | .and _ _ | .test _ | .xor _ _ | .clr _ | .or _ _ | .inv _ | .ldwInd _ _ | .ldbInd _ _
  | .stwInd _ _ | .stbInd _ _ | .ldwInc _ _ | .ldbInc _ _ | .stwInc _ _ | .stbInc _ _ | .ldwSp _ _ | .ldbSp _ _
  | .stwSp _ _ | .stbSp _ _ | .ldwAbs _ _ | .ldbAbs _ _ | .stwAbs _ _ | .stbAbs _ _ | .popReg _ | .pushReg _
  | .ldwImm _ _ | .ldbImm _ _ | .cmp _ _ | .rolImm _ _ | .rolReg _ _ => [.n, .z, .v, .c]
  | .add _ _ | .addq _ _ | .sub _ _ | .neg _ | .abs _ | .addx | .subx | .negx | .lslImm _ _ | .lslReg _ _
  | .lsrReg _ _ | .lslWt _ _ | .lsrWt _ _ | .aslImm _ _ | .aslReg _ _ | .asrReg _ _ | .aslWt _ _ | .asrWt _ _
  | .rorReg _ _ | .rolWt _ _ | .rorWt _ _ | .roxlImm _ _ | .roxlReg _ _ | .roxrReg _ _ | .roxlWt _ _ | .roxrWt _ _
  | .mulu | .muls | .sqrt => [.n, .z, .v, .x, .c]
  | .divu | .divs => if s.reg .r1 = 0#16 then [.i, .n, .z, .v, .x, .c] else [.n, .z, .v, .x, .c]
  | .btstImm _ _ | .btstReg _ _ | .bchgImm _ _ | .bchgReg _ _ | .bclrImm _ _ | .bclrReg _ _ | .bsetImm _ _
  | .bsetReg _ _ => [.z]
  | .andPs _ | .orPs _ | .popPs | .reti => [.i, .n, .z, .v, .x, .c, .d, .u]
  | .trap => [.i]
  | .nopC5 | .ret | .pushPs | .jsrR0 | .jsrAbs _ | .shReserved _ _ _ _ _ | .bitImmReserved _ _ _
  | .bitRegReserved _ _ _ _ | .buc _ | .bus _ | .bhi _ | .bls _ | .bcc _ | .bcs _ | .bne _ | .beq _ | .bvc _
  | .bvs _ | .bpl _ | .bmi _ | .bge _ | .blt _ | .bgt _ | .ble _ | .moveR0Sp | .moveSpR0 | .jmpR0 | .jmpAbs _
  | .addSp _ | .nop => []

/-- The addresses that an instruction stores to from a state (R57, R140, R160, R241). -/
def bytesStored (s : State) : Instr → List Word
  | .stwInd _ ri | .stwInc _ ri => [s.eaIndirect ri, s.eaIndirect ri + 1#16]
  | .stbInd _ ri | .stbInc _ ri => [s.eaIndirect ri]
  | .stwSp _ m => [s.eaStack m, s.eaStack m + 1#16]
  | .stbSp _ m => [s.eaStack m]
  | .stwAbs _ addr => [addr, addr + 1#16]
  | .stbAbs _ addr => [addr]
  | .pushReg _ | .jsrR0 | .jsrAbs _ => [s.sp - 2#16, s.sp - 1#16]
  | .pushPs => [s.sp - 1#16]
  | .trap => [s.sp - 3#16, s.sp - 2#16, s.sp - 1#16]
  | .divu | .divs => if s.reg .r1 = 0#16 then [s.sp - 3#16, s.sp - 2#16, s.sp - 1#16] else []
  | .move _ _ | .sxt _ | .and _ _ | .test _ | .xor _ _ | .clr _ | .or _ _ | .inv _ | .add _ _ | .addq _ _ | .sub _ _
  | .neg _ | .cmp _ _ | .abs _ | .ldwInd _ _ | .ldbInd _ _ | .ldwInc _ _ | .ldbInc _ _ | .ldwSp _ _ | .ldbSp _ _
  | .ldwAbs _ _ | .ldbAbs _ _ | .popReg _ | .popPs | .nopC5 | .ret | .reti | .ldwImm _ _ | .ldbImm _ _ | .lslImm _ _
  | .lslReg _ _ | .lsrReg _ _ | .lslWt _ _ | .lsrWt _ _ | .aslImm _ _ | .aslReg _ _ | .asrReg _ _ | .aslWt _ _
  | .asrWt _ _ | .rolImm _ _ | .rolReg _ _ | .rorReg _ _ | .rolWt _ _ | .rorWt _ _ | .roxlImm _ _ | .roxlReg _ _
  | .roxrReg _ _ | .roxlWt _ _ | .roxrWt _ _ | .shReserved _ _ _ _ _ | .btstImm _ _ | .btstReg _ _ | .bchgImm _ _
  | .bchgReg _ _ | .bclrImm _ _ | .bclrReg _ _ | .bsetImm _ _ | .bsetReg _ _ | .bitImmReserved _ _ _
  | .bitRegReserved _ _ _ _ | .buc _ | .bus _ | .bhi _ | .bls _ | .bcc _ | .bcs _ | .bne _ | .beq _ | .bvc _
  | .bvs _ | .bpl _ | .bmi _ | .bge _ | .blt _ | .bgt _ | .ble _ | .moveR0Sp | .moveSpR0 | .jmpR0 | .jmpAbs _
  | .andPs _ | .orPs _ | .addSp _ | .sqrt | .mulu | .muls | .addx | .subx | .negx | .nop => []

/-- Whether an instruction writes SP in a state (R22). -/
def writesSp (s : State) : Instr → Bool
  | .popReg _ | .popPs | .ret | .reti | .pushReg _ | .pushPs | .trap | .jsrR0 | .jsrAbs _ | .moveSpR0 | .addSp _ => true
  | .divu | .divs => s.reg .r1 == 0#16
  | .move _ _ | .sxt _ | .and _ _ | .test _ | .xor _ _ | .clr _ | .or _ _ | .inv _ | .add _ _ | .addq _ _ | .sub _ _
  | .neg _ | .cmp _ _ | .abs _ | .ldwInd _ _ | .ldbInd _ _ | .stwInd _ _ | .stbInd _ _ | .ldwInc _ _ | .ldbInc _ _
  | .stwInc _ _ | .stbInc _ _ | .ldwSp _ _ | .ldbSp _ _ | .stwSp _ _ | .stbSp _ _ | .ldwAbs _ _ | .ldbAbs _ _
  | .stwAbs _ _ | .stbAbs _ _ | .nopC5 | .ldwImm _ _ | .ldbImm _ _ | .lslImm _ _ | .lslReg _ _ | .lsrReg _ _
  | .lslWt _ _ | .lsrWt _ _ | .aslImm _ _ | .aslReg _ _ | .asrReg _ _ | .aslWt _ _ | .asrWt _ _ | .rolImm _ _
  | .rolReg _ _ | .rorReg _ _ | .rolWt _ _ | .rorWt _ _ | .roxlImm _ _ | .roxlReg _ _ | .roxrReg _ _ | .roxlWt _ _
  | .roxrWt _ _ | .shReserved _ _ _ _ _ | .btstImm _ _ | .btstReg _ _ | .bchgImm _ _ | .bchgReg _ _ | .bclrImm _ _
  | .bclrReg _ _ | .bsetImm _ _ | .bsetReg _ _ | .bitImmReserved _ _ _ | .bitRegReserved _ _ _ _ | .buc _ | .bus _
  | .bhi _ | .bls _ | .bcc _ | .bcs _ | .bne _ | .beq _ | .bvc _ | .bvs _ | .bpl _ | .bmi _ | .bge _ | .blt _
  | .bgt _ | .ble _ | .moveR0Sp | .jmpR0 | .jmpAbs _ | .andPs _ | .orPs _ | .sqrt | .mulu | .muls | .addx | .subx
  | .negx | .nop => false

/-- The condition and the displacement of a branch (R90, R202). -/
def branchParts : Instr → Option (Cond × Byte)
  | .buc d => some (.uc, d)
  | .bus d => some (.us, d)
  | .bhi d => some (.hi, d)
  | .bls d => some (.ls, d)
  | .bcc d => some (.cc, d)
  | .bcs d => some (.cs, d)
  | .bne d => some (.ne, d)
  | .beq d => some (.eq, d)
  | .bvc d => some (.vc, d)
  | .bvs d => some (.vs, d)
  | .bpl d => some (.pl, d)
  | .bmi d => some (.mi, d)
  | .bge d => some (.ge, d)
  | .blt d => some (.lt, d)
  | .bgt d => some (.gt, d)
  | .ble d => some (.le, d)
  | .move _ _ | .sxt _ | .and _ _ | .test _ | .xor _ _ | .clr _ | .or _ _ | .inv _ | .add _ _ | .addq _ _ | .sub _ _
  | .neg _ | .cmp _ _ | .abs _ | .ldwInd _ _ | .ldbInd _ _ | .stwInd _ _ | .stbInd _ _ | .ldwInc _ _ | .ldbInc _ _
  | .stwInc _ _ | .stbInc _ _ | .ldwSp _ _ | .ldbSp _ _ | .stwSp _ _ | .stbSp _ _ | .ldwAbs _ _ | .ldbAbs _ _
  | .stwAbs _ _ | .stbAbs _ _ | .popReg _ | .popPs | .nopC5 | .ret | .reti | .pushReg _ | .pushPs | .trap | .jsrR0
  | .jsrAbs _ | .ldwImm _ _ | .ldbImm _ _ | .lslImm _ _ | .lslReg _ _ | .lsrReg _ _ | .lslWt _ _ | .lsrWt _ _
  | .aslImm _ _ | .aslReg _ _ | .asrReg _ _ | .aslWt _ _ | .asrWt _ _ | .rolImm _ _ | .rolReg _ _ | .rorReg _ _
  | .rolWt _ _ | .rorWt _ _ | .roxlImm _ _ | .roxlReg _ _ | .roxrReg _ _ | .roxlWt _ _ | .roxrWt _ _
  | .shReserved _ _ _ _ _ | .btstImm _ _ | .btstReg _ _ | .bchgImm _ _ | .bchgReg _ _ | .bclrImm _ _ | .bclrReg _ _
  | .bsetImm _ _ | .bsetReg _ _ | .bitImmReserved _ _ _ | .bitRegReserved _ _ _ _ | .moveR0Sp | .moveSpR0 | .jmpR0
  | .jmpAbs _ | .andPs _ | .orPs _ | .addSp _ | .sqrt | .mulu | .muls | .divu | .divs | .addx | .subx | .negx
  | .nop => none

/-! What every step keeps. -/

/-- The invariant: memory is in canonical form, and a byte waiting as prefetched is at the pc in ram and differs from the
byte now there (R38, R283). -/
def State.Inv (s : State) : Prop :=
  Memory.wf s.mem ∧
    ∀ old, s.prefetch = some old → s.region s.pc = .ram ∧ old ≠ s.readByte .fetch s.pc

/-! Runs. -/

/-- `EndOfRun` as the spec recommends it (R276): the instruction about to execute is a control transfer to itself, an
absolute JMP to its own address or a taken branch with displacement -2. -/
def State.atEndOfRun (s : State) : Bool :=
  match s.fetched with
  | .jmpAbs addr => addr == s.pc
  | i =>
    match branchParts i with
    | some (c, d) => s.holds c && d == 0xFE#8
    | none => false

/-- A run of `n` steps that meets no refusal. -/
def State.runsFor (n : Nat) (s : State) : Prop := ∃ t, Sys2Proof.core.run n s = .next t

end Sys2Proof.Machine
end

