-- ==== Sys2Proof/Certificates/Slice0/Obligations.lean ====
section
/-! DEFINITION. The statements for the provers. Each says its rule of spec/ in exact integers and single bits, with what the
instruction leaves unchanged. -/

section

open Sys2Proof Sys2Proof.Machine

/-! The machine as a whole. -/

/-- The state after reset. THE MODEL'S CHOICE where the spec gives no value: R0 to R3, SP and PS are 0 (logs 1 to 3), the pc
is 0x0000 (log 4), every byte of memory reads 0x00 (log 5), every address is ram (log 6), nothing waits (log 10). -/
def Obligations.StateAfterReset : Prop :=
  (∀ r, State.reset.reg r = 0x0000#16) ∧ State.reset.sp = 0x0000#16 ∧ State.reset.pc = 0x0000#16 ∧
    (∀ f, State.reset.flag f = false) ∧ (∀ a, State.reset.region a = .ram) ∧
    (∀ k a, State.reset.readByte k a = 0x00#8) ∧ State.reset.inputs = [] ∧ State.reset.prefetch = none ∧
    State.reset.devOut = []

/-- The invariant holds right after reset (R38, R39). -/
def Obligations.InvariantAtReset : Prop := State.reset.Inv

/-- Every step keeps the invariant: memory stays in canonical form within 2^16 addresses (R38), and a byte waiting as
prefetched is one that the store just made replaced at the pc (R283, the spec's choice D7, log 21). -/
def Obligations.StepKeepsInvariant : Prop := ∀ s t : State, s.Inv → step s = .next t → t.Inv

/-- Where no reset waits and no enabled request, a step runs the instruction that the bytes at the pc decode to, with the
boundary's input used up before it, and the next draw epoch after it (R96, R245). The boundary and the draw epoch are the
spec's and the model's choices (D11, logs 10 and 22). -/
def Obligations.StepRunsDecodedInstruction : Prop :=
  ∀ (s : State) (i : Instr) (rest : List Byte),
    (s.boundary = .quiet ∨ (s.boundary = .irq ∧ s.flag .i = false)) →
    decode [s.opcodeByte, s.readByte .fetch (s.pc + 1#16), s.readByte .fetch (s.pc + 2#16)] = .ok (i, rest) →
    (∀ t, exec i s.passBoundary = .next t → step s = .next t.nextEpoch) ∧
      (∀ e, exec i s.passBoundary = .refused e → step s = .refused e) ∧
      s.passBoundary = { s with inputs := s.inputs.tail, prefetch := none }

/-- An asserted request with I = 1 is accepted at the boundary: trap entry with the pc of the instruction that would have
run next (R245). The acceptance and its enable sense are the spec's choice D11 (log 11), the vector an open parameter
(log 12). That bytes of the frame at rom and absent addresses stay is the spec's choice D8 (log 9), and the record of what
devices receive is the model's (log 7). The two states are compared before the draw epoch advances. -/
def Obligations.InterruptAccepted : Prop :=
  ∀ (s : State) (rest : List BoundaryInput), s.inputs = .irq :: rest → s.flag .i = true →
    ∃ t, step s = .next t.nextEpoch ∧ TrapEntered s t s.ps s.pc Config.extIntVector ∧ t.inputs = rest ∧ t.map = s.map ∧
      t.epoch = s.epoch ∧ t.prefetch = none

/-- A reset overrides an instruction and an interrupt: the pc is `RESET_PC`, the registers and PS are as the reset leaves
them, and memory is what it was with the bytes that the host loads, the last one of an address standing (R270, R271). The
reset event is the spec's choice D13; what of memory persists is the model's (logs 4, 10 and 31). -/
def Obligations.ResetAtBoundary : Prop :=
  ∀ (s : State) (regs : ResetState) (load : List (Word × Byte)) (rest : List BoundaryInput),
    s.inputs = .reset regs load :: rest →
    ∃ t, step s = .next t ∧ t.pc = Config.resetPc ∧ t.reg .r0 = regs.r0 ∧ t.reg .r1 = regs.r1 ∧ t.reg .r2 = regs.r2 ∧
      t.reg .r3 = regs.r3 ∧ t.sp = regs.sp ∧ t.ps = regs.ps ∧ t.inputs = rest ∧ t.map = s.map ∧ t.prefetch = none ∧
      t.devOut = s.devOut ∧
      (∀ a : Word, (∀ v, (a, v) ∉ load) → Memory.read t.mem a.toNat = Memory.read s.mem a.toNat) ∧
      (∀ (a : Word) (v : Byte) (before after : List (Word × Byte)), load = before ++ (a, v) :: after →
        (∀ w, (a, w) ∉ after) → Memory.read t.mem a.toNat = v)

/-- The one instruction-fetch hazard (R66, R283): a byte waits as prefetched after a step only if the instruction run was a
store to the first byte of its own successor that changed it; the next opcode fetched is then the old byte or the new
one as a free bit decides, and in every other case the byte in memory. The spec's choice D7 (log 21). -/
def Obligations.PrefetchHazard : Prop :=
  ∀ s t : State, step s = .next t →
    (t.prefetch = none → t.opcodeByte = t.readByte .fetch t.pc) ∧
      (∀ old, t.prefetch = some old →
        t.pc = s.pc + BitVec.ofNat 16 s.fetched.len ∧ t.pc ∈ bytesStored s s.fetched ∧
          old = s.readByte .fetch t.pc ∧ old ≠ t.readByte .fetch t.pc ∧
          t.opcodeByte = if Config.freeBit t.epoch .prefetchOld then old else t.readByte .fetch t.pc)

/-- What each instruction may write, of the registers, the flags, SP, memory, the map, and what waits at the boundaries
(R21, R22, R35, R57). That absent and rom addresses ignore a write is the spec's choice D8 (log 9), and the map and the
boundary inputs are the model's fields (logs 6 and 10). -/
def Obligations.FrameOfEveryInstruction : Prop :=
  ∀ (s t : State) (i : Instr), exec i s = .next t →
    RegsKept s t (regsWritten i) ∧ FlagsKept s t (flagsWritten s i) ∧ MemKeptBut s t (bytesStored s i) ∧
      (writesSp s i = false → t.sp = s.sp) ∧ PlatformKept s t

/-- D and U are changed by POP PS, RETI, AND PS and OR PS only, whatever happens at the boundary but a reset (R33, R34). -/
def Obligations.DivisionModeAndUserFlagWriters : Prop :=
  ∀ s t : State, step s = .next t → (t.flag .d ≠ s.flag .d ∨ t.flag .u ≠ s.flag .u) →
    (∃ regs load, s.boundary = .reset regs load) ∨ s.fetched = .popPs ∨ s.fetched = .reti ∨
      (∃ imm, s.fetched = .andPs imm) ∨ (∃ imm, s.fetched = .orPs imm)

/-- A second byte that no Format produces has no step, under the name of its pattern, and nothing else is refused (R94). That
they are refused is the spec's choice D14 (log 20). -/
def Obligations.ReservedSecondBytesRefused : Prop :=
  ∀ (s : State) (b0 b1 b2 : Byte),
    (exec (decodeBytes b0 b1 b2) s = .refused .shReserved ↔
      0xD8 ≤ b0.toNat ∧ b0.toNat ≤ 0xDB ∧ b1.getLsbD 5 = true ∧ b1.getLsbD 2 = true) ∧
    (exec (decodeBytes b0 b1 b2) s = .refused .bitImmReserved ↔
      0xDC ≤ b0.toNat ∧ b0.toNat ≤ 0xDF ∧ b1.getLsbD 5 = false ∧ b1.getLsbD 4 = true) ∧
    (exec (decodeBytes b0 b1 b2) s = .refused .bitRegReserved ↔
      0xDC ≤ b0.toNat ∧ b0.toNat ≤ 0xDF ∧ b1.getLsbD 5 = true ∧
        (b1.getLsbD 4 = true ∨ b1.getLsbD 3 = true ∨ b1.getLsbD 2 = true)) ∧
    ((∃ t, exec (decodeBytes b0 b1 b2) s = .next t) ∨ exec (decodeBytes b0 b1 b2) s = .refused .shReserved ∨
      exec (decodeBytes b0 b1 b2) s = .refused .bitImmReserved ∨
      exec (decodeBytes b0 b1 b2) s = .refused .bitRegReserved)

/-- Once at its end a run stays there: a step from a control transfer to itself changes neither the pc, a register, SP, a
flag nor memory (R276). What counts as the end is the spec's recommendation D23. -/
def Obligations.EndOfRunChangesNothing : Prop :=
  ∀ s : State, s.boundary = .quiet → s.atEndOfRun = true →
    ∃ t, step s = .next t ∧ t.pc = s.pc ∧ RegsKept s t [] ∧ t.sp = s.sp ∧ t.ps = s.ps ∧ t.mem = s.mem ∧ t.map = s.map ∧
      t.devOut = s.devOut

/-- No instruction takes more than 20 cycles (R280, R281). That the 7 cycles of a zero divide include its trap entry is the
model's choice (log 35). -/
def Obligations.CyclesAtMostTwenty : Prop := ∀ (s : State) (i : Instr) (n : Nat), s.cycles i = some n → 1 ≤ n ∧ n ≤ 20

/-! Encoding. -/

/-- Decoding what was encoded gives it back, with the bytes that follow left over. -/
def Obligations.DecodeEncode : Prop :=
  ∀ (i : Instr) (rest : List Byte), i.wf = true → decode (encode i ++ rest) = .ok (i, rest)

/-- Every three bytes begin with exactly one well-formed instruction, and its encoding is the bytes it was read from (R92). -/
def Obligations.EncodeDecode : Prop :=
  ∀ b0 b1 b2 : Byte, (decodeBytes b0 b1 b2).wf = true ∧
    encode (decodeBytes b0 b1 b2) = [b0, b1, b2].take (lengthOfFirstByte b0)

/-- The length from the first byte, row by row (R83). -/
def Obligations.LengthFromFirstByte : Prop :=
  ∀ (b0 b1 b2 : Byte),
    (b0.toNat ≤ 0x9F → (decodeBytes b0 b1 b2).len = 1) ∧
    (0xA0 ≤ b0.toNat ∧ b0.toNat ≤ 0xAF → (decodeBytes b0 b1 b2).len = 2) ∧
    (0xB0 ≤ b0.toNat ∧ b0.toNat ≤ 0xBF → (decodeBytes b0 b1 b2).len = 3) ∧
    (0xC0 ≤ b0.toNat ∧ b0.toNat ≤ 0xCE → (decodeBytes b0 b1 b2).len = 1) ∧
    (b0.toNat = 0xCF → (decodeBytes b0 b1 b2).len = 3) ∧
    (0xD0 ≤ b0.toNat ∧ b0.toNat ≤ 0xD3 → (decodeBytes b0 b1 b2).len = 3) ∧
    (0xD4 ≤ b0.toNat ∧ b0.toNat ≤ 0xDF → (decodeBytes b0 b1 b2).len = 2) ∧
    (0xE0 ≤ b0.toNat ∧ b0.toNat ≤ 0xEF → (decodeBytes b0 b1 b2).len = 2) ∧
    (0xF0 ≤ b0.toNat ∧ b0.toNat ≤ 0xF2 → (decodeBytes b0 b1 b2).len = 1) ∧
    (b0.toNat = 0xF3 → (decodeBytes b0 b1 b2).len = 3) ∧
    (0xF4 ≤ b0.toNat ∧ b0.toNat ≤ 0xF6 → (decodeBytes b0 b1 b2).len = 2) ∧
    (0xF7 ≤ b0.toNat → (decodeBytes b0 b1 b2).len = 1)

/-- Words of the source's traces decode to the instructions printed beside them (R82, R92). Eleven are as the source prints
them; 0x59 of ADDQ R1,#-2 and 0xFB of DIVS are the spec's corrected bytes, for which the source prints 0x4D and 0xFA
(90_conflicts.md C2, log 26). -/
def Obligations.SampleWords : Prop :=
  decode [0x01#8] = .ok (.move .r1 .r0, []) ∧ decode [0x4D#8] = .ok (.add .r1 .r3, []) ∧
    decode [0x59#8] = .ok (.addq .r1 .minus2, []) ∧ decode [0x90#8] = .ok (.ldwInc .r0 .r2, []) ∧
    decode [0xAD#8, 0x04#8] = .ok (.stbSp .r1 0x04#8, []) ∧
    decode [0xBB#8, 0x63#8, 0x00#8] = .ok (.stwAbs .r3 0x0063#16, []) ∧
    decode [0xD0#8, 0xCD#8, 0xAB#8] = .ok (.ldwImm .r0 0xABCD#16, []) ∧
    decode [0xD8#8, 0x73#8] = .ok (.asrReg .r0 .r3, []) ∧ decode [0xD9#8, 0x6A#8] = .ok (.aslWt .r1 .r2, []) ∧
    decode [0xDE#8, 0xE1#8] = .ok (.bsetReg .r2 .r1, []) ∧ decode [0xE5#8, 0x02#8] = .ok (.bcs 0x02#8, []) ∧
    decode [0xF3#8, 0x18#8, 0x01#8] = .ok (.jmpAbs 0x0118#16, []) ∧ decode [0xFB#8] = .ok (.divs, [])

/-! Memory. -/

/-- A word stored in ram is read back, little-endian and at any address, even or odd; a byte read of either half sees that
half alone, and a byte stored at the lower address replaces only the low-order byte (R51 to R56). -/
def Obligations.WordsInMemory : Prop :=
  ∀ (s : State) (a v : Word) (b : Byte) (k : Access), s.region a = .ram → s.region (a + 1#16) = .ram →
    (s.writeWord a v).readWord k a = v ∧
      ((s.writeWord a v).readByte k a).toNat = v.toNat % 256 ∧
      ((s.writeWord a v).readByte k (a + 1#16)).toNat = v.toNat / 256 ∧
      (((s.writeWord a v).writeByte a b).readWord k a).toNat = b.toNat + 256 * (v.toNat / 256)

/-- Memories in canonical form that read the same everywhere are the same list. -/
def Obligations.EqualMemoriesAreEqualData : Prop :=
  ∀ m n : Memory, Memory.wf m → Memory.wf n → (∀ a, a < 65536 → Memory.read m a = Memory.read n a) → m = n

/-! Register move and logical instructions. -/

/-- MOVE, AND, XOR, OR of two registers and CLR: the result bit by bit, the flags of it, and nothing else changed (R110,
R111, R113, R115, R116). -/
def Obligations.MoveAndXorOr : Prop :=
  ∀ (s : State) (ra rb : Reg),
    (ra ≠ rb →
      OneByte s (.move ra rb) (0x00 + 4 * rb.bits.toNat + ra.bits.toNat) 1 ∧
      OneByte s (.and ra rb) (0x10 + 4 * rb.bits.toNat + ra.bits.toNat) 1 ∧
      OneByte s (.xor ra rb) (0x20 + 4 * rb.bits.toNat + ra.bits.toNat) 1 ∧
      OneByte s (.or ra rb) (0x30 + 4 * rb.bits.toNat + ra.bits.toNat) 1 ∧
      (∃ t, exec (.move ra rb) s = .next t ∧ t.reg ra = s.reg rb ∧ LogicWritten s t ra 1) ∧
      (∃ t, exec (.and ra rb) s = .next t ∧
        (∀ k, k < 16 → (t.reg ra).getLsbD k = ((s.reg ra).getLsbD k && (s.reg rb).getLsbD k)) ∧ LogicWritten s t ra 1) ∧
      (∃ t, exec (.xor ra rb) s = .next t ∧
        (∀ k, k < 16 → (t.reg ra).getLsbD k = ((s.reg ra).getLsbD k != (s.reg rb).getLsbD k)) ∧ LogicWritten s t ra 1) ∧
      (∃ t, exec (.or ra rb) s = .next t ∧
        (∀ k, k < 16 → (t.reg ra).getLsbD k = ((s.reg ra).getLsbD k || (s.reg rb).getLsbD k)) ∧ LogicWritten s t ra 1)) ∧
    OneByte s (.clr ra) (0x20 + 5 * ra.bits.toNat) 1 ∧
    (∃ t, exec (.clr ra) s = .next t ∧ t.reg ra = 0x0000#16 ∧ LogicWritten s t ra 1)

/-- SXT, TEST and INV: the sign-extended low byte, the register as it was, and all bits inverted (R112, R114, R117). -/
def Obligations.SxtTestInv : Prop :=
  ∀ (s : State) (ra : Reg),
    OneByte s (.sxt ra) (0x00 + 5 * ra.bits.toNat) 1 ∧
    (∃ t, exec (.sxt ra) s = .next t ∧ (t.reg ra).toNat % 256 = (s.reg ra).toNat % 256 ∧
      (t.reg ra).toNat / 256 = (if (s.reg ra).getLsbD 7 then 255 else 0) ∧ LogicWritten s t ra 1) ∧
    OneByte s (.test ra) (0x10 + 5 * ra.bits.toNat) 1 ∧
    (∃ t, exec (.test ra) s = .next t ∧ t.reg ra = s.reg ra ∧ LogicWritten s t ra 1) ∧
    OneByte s (.inv ra) (0x30 + 5 * ra.bits.toNat) 1 ∧
    (∃ t, exec (.inv ra) s = .next t ∧ (t.reg ra).toNat = 65535 - (s.reg ra).toNat ∧ LogicWritten s t ra 1)

/-! Integer add, subtract and compare. -/

/-- ADD and ADDQ on exact integers; the carry of a negative constant is that of the addition, so it is clear where a
subtraction would borrow (R121, R122). -/
def Obligations.AddAndAddq : Prop :=
  ∀ (s : State) (ra rb : Reg) (q : Small),
    OneByte s (.add ra rb) (0x40 + 4 * rb.bits.toNat + ra.bits.toNat) 1 ∧
    (∃ t, exec (.add ra rb) s = .next t ∧
      (t.reg ra).toNat = ((s.reg ra).toNat + (s.reg rb).toNat) % 65536 ∧
      (t.flag .c = true ↔ 65536 ≤ (s.reg ra).toNat + (s.reg rb).toNat) ∧
      (t.flag .v = true ↔ SignedOverflow ((s.reg ra).toInt + (s.reg rb).toInt)) ∧ ArithWritten s t ra) ∧
    OneByte s (.addq ra q) (0x50 + 4 * q.bits.toNat + ra.bits.toNat) 1 ∧
    (∃ t, exec (.addq ra q) s = .next t ∧
      ((t.reg ra).toNat : Int) = ((s.reg ra).toNat + smallInt q) % 65536 ∧
      (t.flag .c = true ↔
        if 0 < smallInt q then 65536 ≤ (s.reg ra).toNat + smallInt q else 0 ≤ (s.reg ra).toNat + smallInt q) ∧
      (t.flag .v = true ↔ SignedOverflow ((s.reg ra).toInt + smallInt q)) ∧ ArithWritten s t ra)

/-- SUB, NEG and CMP on exact integers: C is the borrow, and CMP writes no register and no X (R123, R124, R125). -/
def Obligations.SubNegCmp : Prop :=
  ∀ (s : State) (ra rb : Reg),
    (ra ≠ rb →
      OneByte s (.sub ra rb) (0x60 + 4 * rb.bits.toNat + ra.bits.toNat) 1 ∧
      (∃ t, exec (.sub ra rb) s = .next t ∧
        ((t.reg ra).toNat : Int) = ((s.reg ra).toNat - (s.reg rb).toNat : Int) % 65536 ∧
        (t.flag .c = true ↔ (s.reg ra).toNat < (s.reg rb).toNat) ∧
        (t.flag .v = true ↔ SignedOverflow ((s.reg ra).toInt - (s.reg rb).toInt)) ∧ ArithWritten s t ra) ∧
      OneByte s (.cmp ra rb) (0x70 + 4 * rb.bits.toNat + ra.bits.toNat) 1 ∧
      (∃ t, exec (.cmp ra rb) s = .next t ∧
        (t.flag .n = true ↔ 32768 ≤ ((s.reg ra).toNat - (s.reg rb).toNat : Int) % 65536) ∧
        (t.flag .z = true ↔ s.reg ra = s.reg rb) ∧
        (t.flag .c = true ↔ (s.reg ra).toNat < (s.reg rb).toNat) ∧
        (t.flag .v = true ↔ SignedOverflow ((s.reg ra).toInt - (s.reg rb).toInt)) ∧
        FallsThrough s t 1 ∧ OnlyRegsAndFlags s t [] [.n, .z, .v, .c])) ∧
    OneByte s (.neg ra) (0x60 + 5 * ra.bits.toNat) 1 ∧
    (∃ t, exec (.neg ra) s = .next t ∧
      (t.reg ra).toNat = (65536 - (s.reg ra).toNat) % 65536 ∧
      (t.flag .c = true ↔ (s.reg ra).toNat ≠ 0) ∧ (t.flag .v = true ↔ (s.reg ra).toNat = 32768) ∧ ArithWritten s t ra)

/-- ABS: a negative register is negated with the flags of NEG; any other is left, with N, V, C and X clear (R128). -/
def Obligations.AbsOfRegister : Prop :=
  ∀ (s : State) (ra : Reg),
    OneByte s (.abs ra) (0x70 + 5 * ra.bits.toNat) 1 ∧
    ∃ t, exec (.abs ra) s = .next t ∧ (t.reg ra).toNat = (s.reg ra).toInt.natAbs ∧
      (t.flag .c = true ↔ (s.reg ra).toInt < 0) ∧ (t.flag .v = true ↔ (s.reg ra).toNat = 32768) ∧ ArithWritten s t ra

/-- ADDX, SUBX and NEGX on exact integers with the X flag, and the sticky Z (R126, R127, R130). -/
def Obligations.ExtendedArithmetic : Prop :=
  ∀ s : State,
    OneByte s .addx 0xFC 1 ∧
    (∃ t, exec .addx s = .next t ∧
      (t.reg .r0).toNat = ((s.reg .r0).toNat + (s.reg .r1).toNat + (s.flag .x).toNat) % 65536 ∧
      (t.flag .c = true ↔ 65536 ≤ (s.reg .r0).toNat + (s.reg .r1).toNat + (s.flag .x).toNat) ∧
      (t.flag .v = true ↔ SignedOverflow ((s.reg .r0).toInt + (s.reg .r1).toInt + (s.flag .x).toNat)) ∧
      ExtendedWritten s t) ∧
    OneByte s .subx 0xFD 1 ∧
    (∃ t, exec .subx s = .next t ∧
      ((t.reg .r0).toNat : Int) = ((s.reg .r0).toNat - (s.reg .r1).toNat - (s.flag .x).toNat : Int) % 65536 ∧
      (t.flag .c = true ↔ (s.reg .r0).toNat < (s.reg .r1).toNat + (s.flag .x).toNat) ∧
      (t.flag .v = true ↔ SignedOverflow ((s.reg .r0).toInt - (s.reg .r1).toInt - (s.flag .x).toNat)) ∧
      ExtendedWritten s t) ∧
    OneByte s .negx 0xFE 1 ∧
    (∃ t, exec .negx s = .next t ∧
      ((t.reg .r0).toNat : Int) = (0 - (s.reg .r0).toNat - (s.flag .x).toNat : Int) % 65536 ∧
      (t.flag .c = true ↔ 0 < (s.reg .r0).toNat + (s.flag .x).toNat) ∧
      (t.flag .v = true ↔ SignedOverflow (0 - (s.reg .r0).toInt - (s.flag .x).toNat)) ∧ ExtendedWritten s t)

/-- Two-word addition and subtraction: the low words with ADD or SUB, anything that keeps X, then ADDX or SUBX of the high
words give the exact 32-bit result and its carry or borrow (R131). -/
def Obligations.TwoWordArithmetic : Prop :=
  ∀ (s : State) (ra rb : Reg),
    (∃ t, exec (.add ra rb) s = .next t ∧ ∀ u : State, u.flag .x = t.flag .x → ∃ w, exec .addx u = .next w ∧
      65536 * (w.reg .r0).toNat + (t.reg ra).toNat + 4294967296 * (w.flag .c).toNat =
        (65536 * (u.reg .r0).toNat + (s.reg ra).toNat) + (65536 * (u.reg .r1).toNat + (s.reg rb).toNat)) ∧
    (ra ≠ rb → ∃ t, exec (.sub ra rb) s = .next t ∧ ∀ u : State, u.flag .x = t.flag .x → ∃ w, exec .subx u = .next w ∧
      (65536 * (w.reg .r0).toNat + (t.reg ra).toNat : Int) - 4294967296 * (w.flag .c).toNat =
        (65536 * (u.reg .r0).toNat + (s.reg ra).toNat) - (65536 * (u.reg .r1).toNat + (s.reg rb).toNat))

/-- After CMP the conditions are the unsigned and the signed relations of the two registers (R125, R201). -/
def Obligations.ConditionsAfterCompare : Prop :=
  ∀ (s : State) (ra rb : Reg), ra ≠ rb → ∃ t, exec (.cmp ra rb) s = .next t ∧
    (t.holds .eq = true ↔ s.reg ra = s.reg rb) ∧ (t.holds .ne = true ↔ s.reg ra ≠ s.reg rb) ∧
    (t.holds .hi = true ↔ (s.reg rb).toNat < (s.reg ra).toNat) ∧
    (t.holds .ls = true ↔ (s.reg ra).toNat ≤ (s.reg rb).toNat) ∧
    (t.holds .cc = true ↔ (s.reg rb).toNat ≤ (s.reg ra).toNat) ∧
    (t.holds .cs = true ↔ (s.reg ra).toNat < (s.reg rb).toNat) ∧
    (t.holds .ge = true ↔ (s.reg rb).toInt ≤ (s.reg ra).toInt) ∧
    (t.holds .lt = true ↔ (s.reg ra).toInt < (s.reg rb).toInt) ∧
    (t.holds .gt = true ↔ (s.reg rb).toInt < (s.reg ra).toInt) ∧
    (t.holds .le = true ↔ (s.reg ra).toInt ≤ (s.reg rb).toInt)

/-! Loads. -/

/-- LD.W and LD.B from (RI) and (RI++) (R141, R142, R145, R146): the little-endian word or the zero-extended byte at the
index register as it was, the flags of the value, and the index register moved on. -/
def Obligations.LoadIndirect : Prop :=
  ∀ (s : State) (rc : DataReg) (ri : IndexReg),
    OneByte s (.ldwInd rc ri) (0x80 + 2 * ri.bits.toNat + rc.bits.toNat) 3 ∧
    (∃ t, exec (.ldwInd rc ri) s = .next t ∧
      (t.reg (dataReg rc)).toNat =
        (s.readByte .data (s.eaIndirect ri)).toNat + 256 * (s.readByte .data (s.eaIndirect ri + 1#16)).toNat ∧
      LogicWritten s t (dataReg rc) 1) ∧
    OneByte s (.ldbInd rc ri) (0x84 + 2 * ri.bits.toNat + rc.bits.toNat) 2 ∧
    (∃ t, exec (.ldbInd rc ri) s = .next t ∧
      (t.reg (dataReg rc)).toNat = (s.readByte .data (s.eaIndirect ri)).toNat ∧ LogicWritten s t (dataReg rc) 1) ∧
    OneByte s (.ldwInc rc ri) (0x90 + 2 * ri.bits.toNat + rc.bits.toNat) 3 ∧
    (∃ t, exec (.ldwInc rc ri) s = .next t ∧
      (t.reg (dataReg rc)).toNat =
        (s.readByte .data (s.eaIndirect ri)).toNat + 256 * (s.readByte .data (s.eaIndirect ri + 1#16)).toNat ∧
      (t.reg (indexReg ri)).toNat = ((s.reg (indexReg ri)).toNat + 2) % 65536 ∧
      LogicFlagsOf t (t.reg (dataReg rc)) ∧ FallsThrough s t 1 ∧
      OnlyRegsAndFlags s t [dataReg rc, indexReg ri] [.n, .z, .v, .c]) ∧
    OneByte s (.ldbInc rc ri) (0x94 + 2 * ri.bits.toNat + rc.bits.toNat) 2 ∧
    (∃ t, exec (.ldbInc rc ri) s = .next t ∧
      (t.reg (dataReg rc)).toNat = (s.readByte .data (s.eaIndirect ri)).toNat ∧
      (t.reg (indexReg ri)).toNat = ((s.reg (indexReg ri)).toNat + 1) % 65536 ∧
      LogicFlagsOf t (t.reg (dataReg rc)) ∧ FallsThrough s t 1 ∧
      OnlyRegsAndFlags s t [dataReg rc, indexReg ri] [.n, .z, .v, .c])

/-- LD.W and LD.B from (SP,m) and from an absolute address (R149, R150, R153, R154). -/
def Obligations.LoadStackAndAbsolute : Prop :=
  ∀ (s : State) (ra : Reg) (m : Byte) (addr : Word),
    (s.eaStack m).toNat = (s.sp.toNat + m.toNat) % 65536 ∧
    TwoBytes s (.ldwSp ra m) (0xA0 + ra.bits.toNat) m.toNat 4 ∧
    (∃ t, exec (.ldwSp ra m) s = .next t ∧
      (t.reg ra).toNat =
        (s.readByte .data (s.eaStack m)).toNat + 256 * (s.readByte .data (s.eaStack m + 1#16)).toNat ∧
      LogicWritten s t ra 2) ∧
    TwoBytes s (.ldbSp ra m) (0xA4 + ra.bits.toNat) m.toNat 3 ∧
    (∃ t, exec (.ldbSp ra m) s = .next t ∧
      (t.reg ra).toNat = (s.readByte .data (s.eaStack m)).toNat ∧ LogicWritten s t ra 2) ∧
    ThreeBytes s (.ldwAbs ra addr) (0xB0 + ra.bits.toNat) addr 5 ∧
    (∃ t, exec (.ldwAbs ra addr) s = .next t ∧
      (t.reg ra).toNat = (s.readByte .data addr).toNat + 256 * (s.readByte .data (addr + 1#16)).toNat ∧
      LogicWritten s t ra 3) ∧
    ThreeBytes s (.ldbAbs ra addr) (0xB4 + ra.bits.toNat) addr 4 ∧
    (∃ t, exec (.ldbAbs ra addr) s = .next t ∧
      (t.reg ra).toNat = (s.readByte .data addr).toNat ∧ LogicWritten s t ra 3)

/-- LD.W and LD.B of an immediate: the word as it is, the byte zero-extended (R157, R158). -/
def Obligations.LoadImmediate : Prop :=
  ∀ (s : State) (ra : Reg) (imm : Word) (b : Byte),
    ThreeBytes s (.ldwImm ra imm) (0xD0 + ra.bits.toNat) imm 3 ∧
    (∃ t, exec (.ldwImm ra imm) s = .next t ∧ t.reg ra = imm ∧ LogicWritten s t ra 3) ∧
    TwoBytes s (.ldbImm ra b) (0xD4 + ra.bits.toNat) b.toNat 2 ∧
    (∃ t, exec (.ldbImm ra b) s = .next t ∧ (t.reg ra).toNat = b.toNat ∧ LogicWritten s t ra 2)

/-! Stores. -/

/-- ST.W in its four forms (R143, R147, R151, R155): the two bytes at the effective address and no other, the flags of the
register, the index register moved on in the (RI++) form, and nothing else. That rom and absent addresses ignore the
store is the spec's choice D8 (log 9), the record of what devices receive the model's (log 7), and the byte that may wait
as prefetched the spec's choice D7 (log 21). -/
def Obligations.StoreWord : Prop :=
  ∀ (s : State) (rc : DataReg) (ri : IndexReg) (ra : Reg) (m : Byte) (addr : Word),
    OneByte s (.stwInd rc ri) (0x88 + 2 * ri.bits.toNat + rc.bits.toNat) 3 ∧
    (∃ t, exec (.stwInd rc ri) s = .next t ∧ WordStored s t (s.eaIndirect ri) (s.reg (dataReg rc)) ∧
      LogicFlagsOf t (s.reg (dataReg rc)) ∧ FlagsKept s t [.n, .z, .v, .c] ∧ RegsKept s t [] ∧ t.sp = s.sp ∧
      StoreRetired s t 1) ∧
    OneByte s (.stwInc rc ri) (0x98 + 2 * ri.bits.toNat + rc.bits.toNat) 3 ∧
    (∃ t, exec (.stwInc rc ri) s = .next t ∧ WordStored s t (s.eaIndirect ri) (s.reg (dataReg rc)) ∧
      (t.reg (indexReg ri)).toNat = ((s.reg (indexReg ri)).toNat + 2) % 65536 ∧
      LogicFlagsOf t (s.reg (dataReg rc)) ∧ FlagsKept s t [.n, .z, .v, .c] ∧ RegsKept s t [indexReg ri] ∧ t.sp = s.sp ∧
      StoreRetired s t 1) ∧
    TwoBytes s (.stwSp ra m) (0xA8 + ra.bits.toNat) m.toNat 4 ∧
    (∃ t, exec (.stwSp ra m) s = .next t ∧ WordStored s t (s.eaStack m) (s.reg ra) ∧
      LogicFlagsOf t (s.reg ra) ∧ FlagsKept s t [.n, .z, .v, .c] ∧ RegsKept s t [] ∧ t.sp = s.sp ∧ StoreRetired s t 2) ∧
    ThreeBytes s (.stwAbs ra addr) (0xB8 + ra.bits.toNat) addr 5 ∧
    (∃ t, exec (.stwAbs ra addr) s = .next t ∧ WordStored s t addr (s.reg ra) ∧
      LogicFlagsOf t (s.reg ra) ∧ FlagsKept s t [.n, .z, .v, .c] ∧ RegsKept s t [] ∧ t.sp = s.sp ∧ StoreRetired s t 3)

/-- ST.B in its four forms (R144, R148, R152, R156, R159): the low byte of the register at the effective address and no
other byte, N and Z from the whole 16-bit register (Z by the spec's choice D20, log 25). For rom, absent and device
addresses and the prefetched byte as in `StoreWord` (D7, D8, logs 7, 9 and 21). -/
def Obligations.StoreByte : Prop :=
  ∀ (s : State) (rc : DataReg) (ri : IndexReg) (ra : Reg) (m : Byte) (addr : Word),
    OneByte s (.stbInd rc ri) (0x8C + 2 * ri.bits.toNat + rc.bits.toNat) 2 ∧
    (∃ t, exec (.stbInd rc ri) s = .next t ∧
      ByteStored s t (s.eaIndirect ri) (BitVec.ofNat 8 ((s.reg (dataReg rc)).toNat % 256)) ∧
      LogicFlagsOf t (s.reg (dataReg rc)) ∧ FlagsKept s t [.n, .z, .v, .c] ∧ RegsKept s t [] ∧ t.sp = s.sp ∧
      StoreRetired s t 1) ∧
    OneByte s (.stbInc rc ri) (0x9C + 2 * ri.bits.toNat + rc.bits.toNat) 2 ∧
    (∃ t, exec (.stbInc rc ri) s = .next t ∧
      ByteStored s t (s.eaIndirect ri) (BitVec.ofNat 8 ((s.reg (dataReg rc)).toNat % 256)) ∧
      (t.reg (indexReg ri)).toNat = ((s.reg (indexReg ri)).toNat + 1) % 65536 ∧
      LogicFlagsOf t (s.reg (dataReg rc)) ∧ FlagsKept s t [.n, .z, .v, .c] ∧ RegsKept s t [indexReg ri] ∧ t.sp = s.sp ∧
      StoreRetired s t 1) ∧
    TwoBytes s (.stbSp ra m) (0xAC + ra.bits.toNat) m.toNat 3 ∧
    (∃ t, exec (.stbSp ra m) s = .next t ∧
      ByteStored s t (s.eaStack m) (BitVec.ofNat 8 ((s.reg ra).toNat % 256)) ∧
      LogicFlagsOf t (s.reg ra) ∧ FlagsKept s t [.n, .z, .v, .c] ∧ RegsKept s t [] ∧ t.sp = s.sp ∧ StoreRetired s t 2) ∧
    ThreeBytes s (.stbAbs ra addr) (0xBC + ra.bits.toNat) addr 4 ∧
    (∃ t, exec (.stbAbs ra addr) s = .next t ∧
      ByteStored s t addr (BitVec.ofNat 8 ((s.reg ra).toNat % 256)) ∧
      LogicFlagsOf t (s.reg ra) ∧ FlagsKept s t [.n, .z, .v, .c] ∧ RegsKept s t [] ∧ t.sp = s.sp ∧ StoreRetired s t 3)

/-! Stack. -/

/-- PUSH RA and PUSH PS (R161, R163): SP lower by the size and the value stored there; PUSH RA writes the flags of the
value, PUSH PS none. For rom, absent and device addresses and the prefetched byte as in `StoreWord` (D7, D8, logs 7, 9
and 21). -/
def Obligations.PushRegisterAndPs : Prop :=
  ∀ (s : State) (ra : Reg),
    OneByte s (.pushReg ra) (0xC8 + ra.bits.toNat) 3 ∧
    (∃ t, exec (.pushReg ra) s = .next t ∧ t.sp = s.sp - 2#16 ∧ WordStored s t (s.sp - 2#16) (s.reg ra) ∧
      LogicFlagsOf t (s.reg ra) ∧ FlagsKept s t [.n, .z, .v, .c] ∧ RegsKept s t [] ∧ StoreRetired s t 1) ∧
    OneByte s .pushPs 0xCC 2 ∧
    (∃ t, exec .pushPs s = .next t ∧ t.sp = s.sp - 1#16 ∧ ByteStored s t (s.sp - 1#16) s.ps ∧
      FlagsKept s t [] ∧ RegsKept s t [] ∧ StoreRetired s t 1)

/-- POP RA and POP PS (R162, R164): the value at SP, SP higher by the size; POP RA writes the flags of the value, POP PS
replaces all eight bits. -/
def Obligations.PopRegisterAndPs : Prop :=
  ∀ (s : State) (ra : Reg),
    OneByte s (.popReg ra) (0xC0 + ra.bits.toNat) 3 ∧
    (∃ t, exec (.popReg ra) s = .next t ∧
      (t.reg ra).toNat = (s.readByte .data s.sp).toNat + 256 * (s.readByte .data (s.sp + 1#16)).toNat ∧
      t.sp.toNat = (s.sp.toNat + 2) % 65536 ∧ LogicFlagsOf t (t.reg ra) ∧ FlagsKept s t [.n, .z, .v, .c] ∧
      RegsKept s t [ra] ∧ FallsThrough s t 1 ∧ NoStore s t) ∧
    OneByte s .popPs 0xC4 2 ∧
    (∃ t, exec .popPs s = .next t ∧ t.ps = s.readByte .data s.sp ∧ t.sp.toNat = (s.sp.toNat + 1) % 65536 ∧
      RegsKept s t [] ∧ FallsThrough s t 1 ∧ NoStore s t)

/-- MOVE R0,SP, MOVE SP,R0 and ADD SP,#imm with its signed immediate: no flag changes (R165, R166, R167). -/
def Obligations.StackPointerMoves : Prop :=
  ∀ (s : State) (imm : Byte),
    OneByte s .moveR0Sp 0xF0 2 ∧
    (∃ t, exec .moveR0Sp s = .next t ∧ t.reg .r0 = s.sp ∧ FallsThrough s t 1 ∧ OnlyRegsAndFlags s t [.r0] []) ∧
    OneByte s .moveSpR0 0xF1 2 ∧
    (∃ t, exec .moveSpR0 s = .next t ∧ t.sp = s.reg .r0 ∧ FallsThrough s t 1 ∧ RegsKept s t [] ∧ FlagsKept s t [] ∧
      NoStore s t) ∧
    TwoBytes s (.addSp imm) 0xF6 imm.toNat 2 ∧
    (∃ t, exec (.addSp imm) s = .next t ∧ (t.sp.toNat : Int) = (s.sp.toNat + imm.toInt) % 65536 ∧ FallsThrough s t 2 ∧
      RegsKept s t [] ∧ FlagsKept s t [] ∧ NoStore s t)

/-- What is pushed is popped: PUSH RA then POP of any register, and PUSH PS then POP PS, give the value back and leave SP as
it was, where the stack is in ram (R160). -/
def Obligations.PopAfterPush : Prop :=
  ∀ (s : State) (ra rb : Reg), s.region (s.sp - 2#16) = .ram → s.region (s.sp - 1#16) = .ram →
    (∃ t u, exec (.pushReg ra) s = .next t ∧ exec (.popReg rb) t = .next u ∧ u.reg rb = s.reg ra ∧ u.sp = s.sp) ∧
    (∃ t u, exec .pushPs s = .next t ∧ exec .popPs t = .next u ∧ u.ps = s.ps ∧ u.sp = s.sp)

/-! Shifts, rotates and weights. -/

/-- LSL with an immediate or a register count and LSR, over every effective count from -16 to 15 (R172 to R176): the closed
forms of the result, the last bit out in C and X, V for left shifts only; a count of zero keeps the register and X. -/
def Obligations.LogicalShifts : Prop :=
  ∀ (s : State) (ra rp : Reg) (c : BitVec 5),
    TwoBytes s (.lslImm ra c) (0xD8 + ra.bits.toNat) (0x00 + c.toNat) (4 + (signed5 c.toNat).natAbs) ∧
    (∃ t, exec (.lslImm ra c) s = .next t ∧ LogicalShifted s t ra (signed5 c.toNat)) ∧
    TwoBytes s (.lslReg ra rp) (0xD8 + ra.bits.toNat) (0x20 + rp.bits.toNat) (4 + (signed5 (s.reg rp).toNat).natAbs) ∧
    (∃ t, exec (.lslReg ra rp) s = .next t ∧ LogicalShifted s t ra (signed5 (s.reg rp).toNat)) ∧
    (signed5 (s.reg rp).toNat ≠ -16 →
      TwoBytes s (.lsrReg ra rp) (0xD8 + ra.bits.toNat) (0x30 + rp.bits.toNat) (4 + (signed5 (s.reg rp).toNat).natAbs) ∧
      ∃ t, exec (.lsrReg ra rp) s = .next t ∧ LogicalShifted s t ra (-(signed5 (s.reg rp).toNat)))

/-- ASL with an immediate or a register count and ASR, over every effective count: left as LSL, right with the sign
replicated (R172 to R174, R177, R178). -/
def Obligations.ArithmeticShifts : Prop :=
  ∀ (s : State) (ra rp : Reg) (c : BitVec 5),
    TwoBytes s (.aslImm ra c) (0xD8 + ra.bits.toNat) (0x40 + c.toNat) (4 + (signed5 c.toNat).natAbs) ∧
    (∃ t, exec (.aslImm ra c) s = .next t ∧ ArithmeticShifted s t ra (signed5 c.toNat)) ∧
    TwoBytes s (.aslReg ra rp) (0xD8 + ra.bits.toNat) (0x60 + rp.bits.toNat) (4 + (signed5 (s.reg rp).toNat).natAbs) ∧
    (∃ t, exec (.aslReg ra rp) s = .next t ∧ ArithmeticShifted s t ra (signed5 (s.reg rp).toNat)) ∧
    (signed5 (s.reg rp).toNat ≠ -16 →
      TwoBytes s (.asrReg ra rp) (0xD8 + ra.bits.toNat) (0x70 + rp.bits.toNat) (4 + (signed5 (s.reg rp).toNat).natAbs) ∧
      ∃ t, exec (.asrReg ra rp) s = .next t ∧ ArithmeticShifted s t ra (-(signed5 (s.reg rp).toNat)))

/-- ROL with an immediate or a register count and ROR, over every effective count: the 16-bit rotation, the last bit out in C,
V clear and X kept (R172 to R174, R179, R180). -/
def Obligations.Rotates : Prop :=
  ∀ (s : State) (ra rp : Reg) (c : BitVec 5),
    TwoBytes s (.rolImm ra c) (0xD8 + ra.bits.toNat) (0x80 + c.toNat) (4 + (signed5 c.toNat).natAbs) ∧
    (∃ t, exec (.rolImm ra c) s = .next t ∧ Rotated s t ra (signed5 c.toNat)) ∧
    TwoBytes s (.rolReg ra rp) (0xD8 + ra.bits.toNat) (0xA0 + rp.bits.toNat) (4 + (signed5 (s.reg rp).toNat).natAbs) ∧
    (∃ t, exec (.rolReg ra rp) s = .next t ∧ Rotated s t ra (signed5 (s.reg rp).toNat)) ∧
    (signed5 (s.reg rp).toNat ≠ -16 →
      TwoBytes s (.rorReg ra rp) (0xD8 + ra.bits.toNat) (0xB0 + rp.bits.toNat) (4 + (signed5 (s.reg rp).toNat).natAbs) ∧
      ∃ t, exec (.rorReg ra rp) s = .next t ∧ Rotated s t ra (-(signed5 (s.reg rp).toNat)))

/-- ROXL with an immediate or a register count and ROXR, over every effective count: the 17-bit rotation through X, the last
bit out in C and X, V clear (R172 to R174, R181, R182). -/
def Obligations.RotatesThroughX : Prop :=
  ∀ (s : State) (ra rp : Reg) (c : BitVec 5),
    TwoBytes s (.roxlImm ra c) (0xD8 + ra.bits.toNat) (0xC0 + c.toNat) (4 + (signed5 c.toNat).natAbs) ∧
    (∃ t, exec (.roxlImm ra c) s = .next t ∧ RotatedThroughX s t ra (signed5 c.toNat)) ∧
    TwoBytes s (.roxlReg ra rp) (0xD8 + ra.bits.toNat) (0xE0 + rp.bits.toNat) (4 + (signed5 (s.reg rp).toNat).natAbs) ∧
    (∃ t, exec (.roxlReg ra rp) s = .next t ∧ RotatedThroughX s t ra (signed5 (s.reg rp).toNat)) ∧
    (signed5 (s.reg rp).toNat ≠ -16 →
      TwoBytes s (.roxrReg ra rp) (0xD8 + ra.bits.toNat) (0xF0 + rp.bits.toNat) (4 + (signed5 (s.reg rp).toNat).natAbs) ∧
      ∃ t, exec (.roxrReg ra rp) s = .next t ∧ RotatedThroughX s t ra (-(signed5 (s.reg rp).toNat)))

/-- The eight weight forms (R183): the number of 1 bits that leave bit 0 in a right movement replaces the operand, 0 for no
movement, and for a left movement nothing is said of it (the spec's choice D19, log 19); Z and C are those of what was
written, N, V and X clear. -/
def Obligations.Weights : Prop :=
  ∀ (s : State) (ra rp : Reg),
    (∀ p ∈ [(Instr.lslWt ra rp, 0x28), (Instr.aslWt ra rp, 0x68), (Instr.rolWt ra rp, 0xA8), (Instr.roxlWt ra rp, 0xE8)],
      TwoBytes s p.1 (0xD8 + ra.bits.toNat) (p.2 + rp.bits.toNat) (4 + (signed5 (s.reg rp).toNat).natAbs) ∧
      ∃ t, exec p.1 s = .next t ∧ Weighed s t ra (signed5 (s.reg rp).toNat)) ∧
    (signed5 (s.reg rp).toNat ≠ -16 →
      ∀ p ∈ [(Instr.lsrWt ra rp, 0x38), (Instr.asrWt ra rp, 0x78), (Instr.rorWt ra rp, 0xB8), (Instr.roxrWt ra rp, 0xF8)],
        TwoBytes s p.1 (0xD8 + ra.bits.toNat) (p.2 + rp.bits.toNat) (4 + (signed5 (s.reg rp).toNat).natAbs) ∧
        ∃ t, exec p.1 s = .next t ∧ Weighed s t ra (-(signed5 (s.reg rp).toNat)))

/-- `SH_NEG16` (R184): the xxR forms with a count field of 10000 run; nothing is said of RA and N, Z, V, X and C after
them, and nothing else changes (the spec's choice D18, log 18). -/
def Obligations.ShiftByNegatedSixteen : Prop :=
  ∀ (s : State) (ra rp : Reg), (s.reg rp).toNat % 32 = 16 →
    ∀ i ∈ [Instr.lsrReg ra rp, .asrReg ra rp, .rorReg ra rp, .roxrReg ra rp, .lsrWt ra rp, .asrWt ra rp, .rorWt ra rp,
        .roxrWt ra rp],
      ∃ t, exec i s = .next t ∧ FallsThrough s t 2 ∧ OnlyRegsAndFlags s t [ra] [.n, .z, .v, .x, .c]

/-! Bit instructions. -/

/-- BTST and BCHG with an immediate bit number or with that in the low four bits of a register, which may be the operand
itself (R187 to R189): Z is the complement of the bit as it was; BTST keeps every bit, BCHG inverts that one. -/
def Obligations.BitTestAndChange : Prop :=
  ∀ (s : State) (ra rp : Reg) (k : BitVec 4),
    TwoBytes s (.btstImm ra k) (0xDC + ra.bits.toNat) (0x00 + k.toNat) 3 ∧
    (∃ t, exec (.btstImm ra k) s = .next t ∧ BitWritten s t ra k.toNat ((s.reg ra).getLsbD k.toNat)) ∧
    TwoBytes s (.btstReg ra rp) (0xDC + ra.bits.toNat) (0x20 + rp.bits.toNat) 3 ∧
    (∃ t, exec (.btstReg ra rp) s = .next t ∧
      BitWritten s t ra ((s.reg rp).toNat % 16) ((s.reg ra).getLsbD ((s.reg rp).toNat % 16))) ∧
    TwoBytes s (.bchgImm ra k) (0xDC + ra.bits.toNat) (0x40 + k.toNat) 3 ∧
    (∃ t, exec (.bchgImm ra k) s = .next t ∧ BitWritten s t ra k.toNat (!(s.reg ra).getLsbD k.toNat)) ∧
    TwoBytes s (.bchgReg ra rp) (0xDC + ra.bits.toNat) (0x60 + rp.bits.toNat) 3 ∧
    (∃ t, exec (.bchgReg ra rp) s = .next t ∧
      BitWritten s t ra ((s.reg rp).toNat % 16) (!(s.reg ra).getLsbD ((s.reg rp).toNat % 16)))

/-- BCLR and BSET with an immediate bit number or with that in the low four bits of a register, which may be the operand
itself (R187, R190, R191): Z is the complement of the bit as it was, and that bit alone becomes 0 or 1. -/
def Obligations.BitClearAndSet : Prop :=
  ∀ (s : State) (ra rp : Reg) (k : BitVec 4),
    TwoBytes s (.bclrImm ra k) (0xDC + ra.bits.toNat) (0x80 + k.toNat) 3 ∧
    (∃ t, exec (.bclrImm ra k) s = .next t ∧ BitWritten s t ra k.toNat false) ∧
    TwoBytes s (.bclrReg ra rp) (0xDC + ra.bits.toNat) (0xA0 + rp.bits.toNat) 3 ∧
    (∃ t, exec (.bclrReg ra rp) s = .next t ∧
      BitWritten s t ra ((s.reg rp).toNat % 16) false) ∧
    TwoBytes s (.bsetImm ra k) (0xDC + ra.bits.toNat) (0xC0 + k.toNat) 3 ∧
    (∃ t, exec (.bsetImm ra k) s = .next t ∧ BitWritten s t ra k.toNat true) ∧
    TwoBytes s (.bsetReg ra rp) (0xDC + ra.bits.toNat) (0xE0 + rp.bits.toNat) 3 ∧
    (∃ t, exec (.bsetReg ra rp) s = .next t ∧
      BitWritten s t ra ((s.reg rp).toNat % 16) true)

/-! Control transfer. -/

/-- The branches on U, on C and Z, and on Z, with their rows of the condition table written out (R300 to R307). -/
def Obligations.BranchesOnUserCarryZero : Prop :=
  ∀ (s : State) (d : Byte),
    BranchBytes s (.buc d) 0xE0 d (s.flag .u = false) ∧
    (∃ t, exec (.buc d) s = .next t ∧ Branched s t d (s.flag .u = false)) ∧
    BranchBytes s (.bus d) 0xE1 d (s.flag .u = true) ∧
    (∃ t, exec (.bus d) s = .next t ∧ Branched s t d (s.flag .u = true)) ∧
    BranchBytes s (.bhi d) 0xE2 d (s.flag .c = false ∧ s.flag .z = false) ∧
    (∃ t, exec (.bhi d) s = .next t ∧ Branched s t d (s.flag .c = false ∧ s.flag .z = false)) ∧
    BranchBytes s (.bls d) 0xE3 d (s.flag .c = true ∨ s.flag .z = true) ∧
    (∃ t, exec (.bls d) s = .next t ∧ Branched s t d (s.flag .c = true ∨ s.flag .z = true)) ∧
    BranchBytes s (.bcc d) 0xE4 d (s.flag .c = false) ∧
    (∃ t, exec (.bcc d) s = .next t ∧ Branched s t d (s.flag .c = false)) ∧
    BranchBytes s (.bcs d) 0xE5 d (s.flag .c = true) ∧
    (∃ t, exec (.bcs d) s = .next t ∧ Branched s t d (s.flag .c = true)) ∧
    BranchBytes s (.bne d) 0xE6 d (s.flag .z = false) ∧
    (∃ t, exec (.bne d) s = .next t ∧ Branched s t d (s.flag .z = false)) ∧
    BranchBytes s (.beq d) 0xE7 d (s.flag .z = true) ∧
    (∃ t, exec (.beq d) s = .next t ∧ Branched s t d (s.flag .z = true))

/-- The branches on V, on N, and on the signed relations, with their rows of the condition table written out (R308 to R315). -/
def Obligations.BranchesOnOverflowNegativeSigned : Prop :=
  ∀ (s : State) (d : Byte),
    BranchBytes s (.bvc d) 0xE8 d (s.flag .v = false) ∧
    (∃ t, exec (.bvc d) s = .next t ∧ Branched s t d (s.flag .v = false)) ∧
    BranchBytes s (.bvs d) 0xE9 d (s.flag .v = true) ∧
    (∃ t, exec (.bvs d) s = .next t ∧ Branched s t d (s.flag .v = true)) ∧
    BranchBytes s (.bpl d) 0xEA d (s.flag .n = false) ∧
    (∃ t, exec (.bpl d) s = .next t ∧ Branched s t d (s.flag .n = false)) ∧
    BranchBytes s (.bmi d) 0xEB d (s.flag .n = true) ∧
    (∃ t, exec (.bmi d) s = .next t ∧ Branched s t d (s.flag .n = true)) ∧
    BranchBytes s (.bge d) 0xEC d (s.flag .n = s.flag .v) ∧
    (∃ t, exec (.bge d) s = .next t ∧ Branched s t d (s.flag .n = s.flag .v)) ∧
    BranchBytes s (.blt d) 0xED d (s.flag .n ≠ s.flag .v) ∧
    (∃ t, exec (.blt d) s = .next t ∧ Branched s t d (s.flag .n ≠ s.flag .v)) ∧
    BranchBytes s (.bgt d) 0xEE d (s.flag .n = s.flag .v ∧ s.flag .z = false) ∧
    (∃ t, exec (.bgt d) s = .next t ∧ Branched s t d (s.flag .n = s.flag .v ∧ s.flag .z = false)) ∧
    BranchBytes s (.ble d) 0xEF d (s.flag .z = true ∨ s.flag .n ≠ s.flag .v) ∧
    (∃ t, exec (.ble d) s = .next t ∧ Branched s t d (s.flag .z = true ∨ s.flag .n ≠ s.flag .v))

/-- JMP (R0), JMP address and the two NOPs (R203, R204, R210, R211). -/
def Obligations.JumpsAndNops : Prop :=
  ∀ (s : State) (addr : Word),
    OneByte s .jmpR0 0xF2 2 ∧
    (∃ t, exec .jmpR0 s = .next t ∧ t.pc = s.reg .r0 ∧ OnlyRegsAndFlags s t [] []) ∧
    ThreeBytes s (.jmpAbs addr) 0xF3 addr 4 ∧
    (∃ t, exec (.jmpAbs addr) s = .next t ∧ t.pc = addr ∧ OnlyRegsAndFlags s t [] []) ∧
    OneByte s .nop 0xFF 1 ∧
    (∃ t, exec .nop s = .next t ∧ FallsThrough s t 1 ∧ OnlyRegsAndFlags s t [] []) ∧
    OneByte s .nopC5 0xC5 1 ∧
    (∃ t, exec .nopC5 s = .next t ∧ FallsThrough s t 1 ∧ OnlyRegsAndFlags s t [] [])

/-- JSR (R0) and JSR address (R205, R206): the address of the next instruction is pushed, one or three bytes on, and no flag
changes. For rom, absent and device addresses as in `StoreWord` (D8, logs 7 and 9). -/
def Obligations.Calls : Prop :=
  ∀ (s : State) (addr : Word),
    OneByte s .jsrR0 0xCE 4 ∧
    (∃ t, exec .jsrR0 s = .next t ∧ t.pc = s.reg .r0 ∧ t.sp = s.sp - 2#16 ∧
      WordStored s t (s.sp - 2#16) (BitVec.ofNat 16 (s.pc.toNat + 1)) ∧ RegsKept s t [] ∧ FlagsKept s t [] ∧
      t.prefetch = s.prefetch ∧ PlatformKept s t) ∧
    ThreeBytes s (.jsrAbs addr) 0xCF addr 6 ∧
    (∃ t, exec (.jsrAbs addr) s = .next t ∧ t.pc = addr ∧ t.sp = s.sp - 2#16 ∧
      WordStored s t (s.sp - 2#16) (BitVec.ofNat 16 (s.pc.toNat + 3)) ∧ RegsKept s t [] ∧ FlagsKept s t [] ∧
      t.prefetch = s.prefetch ∧ PlatformKept s t)

/-- RET and RETI (R207, R208): RET pops the pc; RETI pops all eight bits of PS and then the pc. -/
def Obligations.Returns : Prop :=
  ∀ s : State,
    OneByte s .ret 0xC6 4 ∧
    (∃ t, exec .ret s = .next t ∧
      t.pc.toNat = (s.readByte .data s.sp).toNat + 256 * (s.readByte .data (s.sp + 1#16)).toNat ∧
      t.sp.toNat = (s.sp.toNat + 2) % 65536 ∧ RegsKept s t [] ∧ FlagsKept s t [] ∧ NoStore s t) ∧
    OneByte s .reti 0xC7 5 ∧
    (∃ t, exec .reti s = .next t ∧ t.ps = s.readByte .data s.sp ∧
      t.pc.toNat = (s.readByte .data (s.sp + 1#16)).toNat + 256 * (s.readByte .data (s.sp + 2#16)).toNat ∧
      t.sp.toNat = (s.sp.toNat + 3) % 65536 ∧ RegsKept s t [] ∧ NoStore s t)

/-- TRAP (R209, R241, R242): entry at 0x000C with the address of the next instruction stacked and PS, as it was, below it.
That no operand is encoded is the spec's choice D25 (log 29); for rom, absent and device addresses as in `StoreWord`. -/
def Obligations.TrapInstruction : Prop :=
  ∀ s : State,
    OneByte s .trap 0xCD 6 ∧
    ∃ t, exec .trap s = .next t ∧ TrapEntered s t s.ps (BitVec.ofNat 16 (s.pc.toNat + 1)) 0x000C#16 ∧
      t.prefetch = s.prefetch ∧ PlatformKept s t

/-- RETI undoes a trap entry (R249), and RET a call: where the frame is in ram the program goes on after the instruction with
SP, PS and the registers as they were. -/
def Obligations.ReturnAfterEntry : Prop :=
  ∀ (s : State) (addr : Word), s.region (s.sp - 2#16) = .ram → s.region (s.sp - 1#16) = .ram →
    (s.region (s.sp - 3#16) = .ram →
      ∃ t u, exec .trap s = .next t ∧ exec .reti t = .next u ∧ u.pc = BitVec.ofNat 16 (s.pc.toNat + 1) ∧ u.ps = s.ps ∧
        u.sp = s.sp ∧ RegsKept s u []) ∧
    (∃ t u, exec (.jsrAbs addr) s = .next t ∧ exec .ret t = .next u ∧ u.pc = BitVec.ofNat 16 (s.pc.toNat + 3) ∧
      u.ps = s.ps ∧ u.sp = s.sp ∧ RegsKept s u []) ∧
    (∃ t u, exec .jsrR0 s = .next t ∧ exec .ret t = .next u ∧ u.pc = BitVec.ofNat 16 (s.pc.toNat + 1) ∧
      u.ps = s.ps ∧ u.sp = s.sp ∧ RegsKept s u [])

/-! Multiply, divide, square root and PS. -/

/-- MULU and MULS (R221, R222): the exact 32-bit product in R3:R2, the five arithmetic flags clear; nothing is said of R0
after MULS. -/
def Obligations.Multiply : Prop :=
  ∀ s : State,
    OneByte s .mulu 0xF8 18 ∧
    (∃ t, exec .mulu s = .next t ∧
      65536 * (t.reg .r3).toNat + (t.reg .r2).toNat = (s.reg .r0).toNat * (s.reg .r1).toNat ∧
      ArithFlagsClear t ∧ FallsThrough s t 1 ∧ OnlyRegsAndFlags s t [.r2, .r3] [.n, .z, .v, .x, .c]) ∧
    OneByte s .muls 0xF9 19 ∧
    (∃ t, exec .muls s = .next t ∧
      65536 * (t.reg .r3).toInt + (t.reg .r2).toNat = (s.reg .r0).toInt * (s.reg .r1).toInt ∧
      ArithFlagsClear t ∧ FallsThrough s t 1 ∧ OnlyRegsAndFlags s t [.r0, .r2, .r3] [.n, .z, .v, .x, .c])

/-- DIVU by a divisor that is not 0 (R223, R224): dividend = quotient * divisor + remainder with the remainder below the
divisor. -/
def Obligations.DivideUnsigned : Prop :=
  ∀ s : State, s.reg .r1 ≠ 0#16 →
    OneByte s .divu 0xFA 18 ∧
    ∃ t, exec .divu s = .next t ∧
      (s.reg .r0).toNat = (t.reg .r2).toNat * (s.reg .r1).toNat + (t.reg .r3).toNat ∧
      (t.reg .r3).toNat < (s.reg .r1).toNat ∧
      ArithFlagsClear t ∧ FallsThrough s t 1 ∧ OnlyRegsAndFlags s t [.r2, .r3] [.n, .z, .v, .x, .c]

/-- DIVS by a divisor that is not 0 (R223, R225, R231): with D = 0 the remainder has the sign of the dividend, with D = 1 it is
never negative; R1 becomes its absolute value. Nothing is said of R2 and R3 after -32768 / -1 (the spec's choice D17,
log 17). -/
def Obligations.DivideSigned : Prop :=
  ∀ s : State, s.reg .r1 ≠ 0#16 →
    OneByte s .divs 0xFB 19 ∧
    ∃ t, exec .divs s = .next t ∧
      (¬((s.reg .r0).toInt = -32768 ∧ (s.reg .r1).toInt = -1) →
        (s.reg .r0).toInt = (t.reg .r2).toInt * (s.reg .r1).toInt + (t.reg .r3).toInt ∧
        (t.reg .r3).toInt.natAbs < (s.reg .r1).toInt.natAbs ∧
        (s.flag .d = false → (t.reg .r3).toInt = 0 ∨ ((t.reg .r3).toInt < 0 ↔ (s.reg .r0).toInt < 0)) ∧
        (s.flag .d = true → 0 ≤ (t.reg .r3).toInt)) ∧
      (t.reg .r1).toNat = (s.reg .r1).toInt.natAbs ∧
      ArithFlagsClear t ∧ FallsThrough s t 1 ∧ OnlyRegsAndFlags s t [.r1, .r2, .r3] [.n, .z, .v, .x, .c]

/-- DIVU and DIVS by 0 take the trap (R226, R243): no register is written, the stacked PS is the old one or the old one with
the five arithmetic flags clear as `DIVZERO_PS` says, and the return address is that of the next instruction. The entry is
the spec's choice D10, the vector an open parameter D9 (logs 13 and 14). That bytes of the frame at rom and absent addresses
stay is the spec's choice D8 (log 9), the record of what devices receive is the model's (log 7), and so is that the 7 cycles
include the entry (log 35). -/
def Obligations.DivideByZero : Prop :=
  ∀ s : State, s.reg .r1 = 0#16 → ∀ i ∈ [Instr.divu, Instr.divs],
    Costs s i 1 7 ∧
    ∃ (ps : Byte) (t : State), exec i s = .next t ∧
      (∀ f, PS.get ps f =
        if Config.divZeroClearsFlags = true ∧ f ∈ [Flag.n, .z, .v, .x, .c] then false else s.flag f) ∧
      TrapEntered s t ps (BitVec.ofNat 16 (s.pc.toNat + 1)) Config.divZeroVector ∧
      t.prefetch = s.prefetch ∧ PlatformKept s t

/-- SQRT (R227): the greatest root whose square is not above R1 in R0, what is left in R1, 0 in R3; where bit 15 of R1 is
set nothing is said of R0 and R1 (the spec's choice D16, log 16). -/
def Obligations.SquareRoot : Prop :=
  ∀ s : State,
    OneByte s .sqrt 0xF7 18 ∧
    ∃ t, exec .sqrt s = .next t ∧
      ((s.reg .r1).toNat < 32768 →
        (t.reg .r0).toNat * (t.reg .r0).toNat ≤ (s.reg .r1).toNat ∧
        (s.reg .r1).toNat < ((t.reg .r0).toNat + 1) * ((t.reg .r0).toNat + 1) ∧
        (t.reg .r1).toNat = (s.reg .r1).toNat - (t.reg .r0).toNat * (t.reg .r0).toNat) ∧
      t.reg .r3 = 0#16 ∧
      ArithFlagsClear t ∧ FallsThrough s t 1 ∧ OnlyRegsAndFlags s t [.r0, .r1, .r3] [.n, .z, .v, .x, .c]

/-- AND PS and OR PS (R228, R229): every one of the eight flags, D and U included, from its own bit of the immediate. -/
def Obligations.PsImmediate : Prop :=
  ∀ (s : State) (imm : Byte),
    TwoBytes s (.andPs imm) 0xF4 imm.toNat 2 ∧
    (∃ t, exec (.andPs imm) s = .next t ∧ (∀ f, t.flag f = (s.flag f && imm.getLsbD f.bit)) ∧ FallsThrough s t 2 ∧
      RegsKept s t [] ∧ t.sp = s.sp ∧ NoStore s t) ∧
    TwoBytes s (.orPs imm) 0xF5 imm.toNat 2 ∧
    (∃ t, exec (.orPs imm) s = .next t ∧ (∀ f, t.flag f = (s.flag f || imm.getLsbD f.bit)) ∧ FallsThrough s t 2 ∧
      RegsKept s t [] ∧ t.sp = s.sp ∧ NoStore s t)

end
end

