-- ==== Sys2Proof/Laws/Flags.lean ====
section
/-! SUPPORT. What each flag computation does to each flag (R14, R26 to R35). -/

namespace Sys2Proof.Machine

/-- The mask of a flag has that flag's bit and no other (R26). -/
theorem Flag.mask_bit (f g : Flag) : f.mask.getLsbD g.bit = decide (g = f) := by cases f <;> cases g <;> rfl

/-- Every flag is one of the eight bits of PS (R25, R26). -/
theorem Flag.bit_lt (g : Flag) : g.bit < 8 := by cases g <;> decide

/-- A flag written is read back, and no other flag is changed (R26). -/
@[simp] theorem PS.get_put (ps : Byte) (f g : Flag) (b : Bool) : PS.get (PS.put ps f b) g = if g = f then b else PS.get ps g := by
  have hm := Flag.mask_bit f g
  have hb := Flag.bit_lt g
  cases b <;> by_cases h : g = f <;> simp_all [PS.put, PS.get, -BitVec.getLsbD_eq_getElem]

/-- PS is its eight flags (R25, R26). -/
theorem PS.ext (p q : Byte) (h : ∀ f, PS.get p f = PS.get q f) : p = q := by
  apply BitVec.eq_of_getLsbD_eq
  intro i hi
  have : i = 0 ∨ i = 1 ∨ i = 2 ∨ i = 3 ∨ i = 4 ∨ i = 5 ∨ i = 6 ∨ i = 7 := by omega
  rcases this with rfl | rfl | rfl | rfl | rfl | rfl | rfl | rfl
  · exact h .i
  · exact h .n
  · exact h .z
  · exact h .v
  · exact h .x
  · exact h .c
  · exact h .d
  · exact h .u

theorem PS.get_setNZ (ps : Byte) (v : Word) (f : Flag) :
    PS.get (PS.setNZ ps v) f = match f with | .n => v.msb | .z => v == 0#16 | _ => PS.get ps f := by
  cases f <;> simp [PS.setNZ]

theorem PS.get_logic (ps : Byte) (v : Word) (f : Flag) :
    PS.get (PS.logic ps v) f =
      match f with | .n => v.msb | .z => v == 0#16 | .v => false | .c => false | _ => PS.get ps f := by
  cases f <;> simp [PS.logic, PS.setNZ]

theorem PS.get_clearArith (ps : Byte) (f : Flag) :
    PS.get (PS.clearArith ps) f =
      match f with | .n => false | .z => false | .v => false | .x => false | .c => false | _ => PS.get ps f := by
  cases f <;> simp [PS.clearArith]

theorem PS.get_compare (ps : Byte) (t : ArithResult) (f : Flag) :
    PS.get (PS.compare ps t) f =
      match f with | .n => t.r.msb | .z => t.r == 0#16 | .v => t.v | .c => t.c | _ => PS.get ps f := by
  cases f <;> simp [PS.compare, PS.setNZ]

theorem PS.get_arith (ps : Byte) (t : ArithResult) (f : Flag) :
    PS.get (PS.arith ps t) f =
      match f with | .n => t.r.msb | .z => t.r == 0#16 | .v => t.v | .c => t.c | .x => t.c | _ => PS.get ps f := by
  cases f <;> simp [PS.arith, PS.compare, PS.setNZ]

theorem PS.get_extended (ps : Byte) (t : ArithResult) (f : Flag) :
    PS.get (PS.extended ps t) f =
      match f with
      | .n => t.r.msb | .z => PS.get ps .z && t.r == 0#16 | .v => t.v | .c => t.c | .x => t.c | _ => PS.get ps f := by
  unfold PS.extended
  by_cases h : t.r = 0#16 <;> cases f <;> simp [h]

theorem PS.get_absNonNegative (ps : Byte) (v : Word) (f : Flag) :
    PS.get (PS.absNonNegative ps v) f =
      match f with | .n => false | .z => v == 0#16 | .v => false | .c => false | .x => false | _ => PS.get ps f := by
  cases f <;> simp [PS.absNonNegative]

theorem PS.get_shift (ps : Byte) (v : Word) (overflow out writesX : Bool) (f : Flag) :
    PS.get (PS.shift ps v overflow out writesX) f =
      match f with
      | .n => v.msb | .z => v == 0#16 | .v => overflow | .c => out | .x => if writesX then out else PS.get ps .x
      | _ => PS.get ps f := by
  cases writesX <;> cases f <;> simp [PS.shift, PS.setNZ]

theorem PS.get_weight (ps : Byte) (w : Word) (f : Flag) :
    PS.get (PS.weight ps w) f =
      match f with
      | .n => false | .z => w == 0#16 | .v => false | .x => false | .c => w.getLsbD 0 | _ => PS.get ps f := by
  cases f <;> simp [PS.weight]

theorem PS.get_bitTest (ps : Byte) (t : Bool) (f : Flag) :
    PS.get (PS.bitTest ps t) f = match f with | .z => !t | _ => PS.get ps f := by
  cases f <;> simp [PS.bitTest]

/-- `ADD16` as arithmetic (R14). -/
theorem add16_spec (a b : Word) (cin : Bool) :
    (add16 a b cin).r.toNat = (a.toNat + b.toNat + cin.toNat) % 65536 ∧
    ((add16 a b cin).c = true ↔ 65536 ≤ a.toNat + b.toNat + cin.toNat) ∧
    ((add16 a b cin).v = true ↔ a.toInt + b.toInt + cin.toNat < -32768 ∨ a.toInt + b.toInt + cin.toNat > 32767) := by
  simp [add16, outOfSignedRange]

/-- `SUB16` as arithmetic (R14). -/
theorem sub16_spec (a b : Word) (bin : Bool) :
    ((sub16 a b bin).r.toNat : Int) = ((a.toNat : Int) - b.toNat - bin.toNat) % 65536 ∧
    ((sub16 a b bin).c = true ↔ a.toNat < b.toNat + bin.toNat) ∧
    ((sub16 a b bin).v = true ↔ a.toInt - b.toInt - bin.toNat < -32768 ∨ a.toInt - b.toInt - bin.toNat > 32767) := by
  refine ⟨?_, ?_, ?_⟩
  · simp only [sub16, BitVec.toNat_ofInt]; omega
  · simp [sub16]; omega
  · simp [sub16, outOfSignedRange]

end Sys2Proof.Machine
end

