-- ==== Sys2Proof/Laws/Memory.lean ====
section
/-! SUPPORT. The laws of the memory contents: reading after writing, and the canonical form (R38, R50, R52). -/

namespace Sys2Proof.Machine

theorem Memory.read_erase (m : Memory) (a x : Nat) :
    Memory.read (Memory.erase m a) x = if x = a then Memory.unlisted else Memory.read m x := by
  induction m with
  | nil => simp [Memory.erase, Memory.read]
  | cons cell rest ih =>
    obtain ⟨k, b⟩ := cell
    simp only [Memory.erase, List.filter_cons, Memory.read] at ih ⊢
    by_cases hk : k = a
    · subst hk
      by_cases hx : x = k <;> simp_all [eq_comm]
    · by_cases hkx : k = x
      · subst hkx; simp [hk, Memory.read]
      · simp [hk, hkx, Memory.read, ih]

theorem Memory.read_insert (m : Memory) (a : Nat) (b : Byte) (x : Nat) (h : Memory.read m a = Memory.unlisted ∨ x ≠ a)
    (hm : ∀ cell ∈ m, cell.1 ≠ a) :
    Memory.read (Memory.insert m a b) x = if x = a then b else Memory.read m x := by
  induction m with
  | nil => simp [Memory.insert, Memory.read, eq_comm]
  | cons cell rest ih =>
    obtain ⟨k, c⟩ := cell
    have hka : k ≠ a := hm (k, c) (by simp)
    have ih := ih (by
      rcases h with h | h
      · left; simpa [Memory.read, hka] using h
      · exact .inr h) (fun cell hc => hm cell (by simp [hc]))
    by_cases hlt : a < k
    · simp [Memory.insert, hlt, Memory.read, eq_comm]
    · by_cases hkx : k = x
      · subst hkx; simp [Memory.insert, hlt, Memory.read, hka]
      · simp [Memory.insert, hlt, Memory.read, hkx, ih]

theorem Memory.mem_erase (m : Memory) (a : Nat) (cell : Host.Cell) : cell ∈ Memory.erase m a ↔ cell ∈ m ∧ cell.1 ≠ a := by
  simp [Memory.erase]

/-- A byte written is read back, and no other address is changed (R50, R52): for every memory, canonical or not. -/
theorem Memory.read_write (m : Memory) (a : Nat) (b : Byte) (x : Nat) :
    Memory.read (Memory.write m a b) x = if x = a then b else Memory.read m x := by
  unfold Memory.write
  split
  · next h => subst h; exact Memory.read_erase m a x
  · rw [Memory.read_insert]
    · by_cases hx : x = a <;> simp [hx, Memory.read_erase]
    · left; simp [Memory.read_erase]
    · intro cell hc; exact ((Memory.mem_erase m a cell).1 hc).2

theorem Memory.mem_insert (m : Memory) (a : Nat) (b : Byte) (cell : Host.Cell) :
    cell ∈ Memory.insert m a b ↔ cell = (a, b) ∨ cell ∈ m := by
  induction m with
  | nil => simp [Memory.insert]
  | cons c rest ih =>
    obtain ⟨k, d⟩ := c
    by_cases hlt : a < k
    · simp [Memory.insert, hlt]
    · simp only [Memory.insert, hlt, if_false, List.mem_cons, ih]
      tauto

theorem Memory.insert_sorted (m : Memory) (a : Nat) (b : Byte) (h : m.Pairwise (fun p q => p.1 < q.1))
    (hm : ∀ cell ∈ m, cell.1 ≠ a) : (Memory.insert m a b).Pairwise (fun p q => p.1 < q.1) := by
  induction m with
  | nil => simp [Memory.insert]
  | cons c rest ih =>
    obtain ⟨k, d⟩ := c
    have hka : k ≠ a := hm (k, d) (by simp)
    rw [List.pairwise_cons] at h
    by_cases hlt : a < k
    · rw [Memory.insert, if_pos hlt, List.pairwise_cons, List.pairwise_cons]
      refine ⟨fun cell hc => ?_, h⟩
      rcases List.mem_cons.1 hc with rfl | hc
      · exact hlt
      · exact lt_trans hlt (h.1 cell hc)
    · rw [Memory.insert, if_neg hlt, List.pairwise_cons]
      refine ⟨fun cell hc => ?_, ih h.2 (fun cell hc => hm cell (by simp [hc]))⟩
      rcases (Memory.mem_insert _ _ _ _).1 hc with rfl | hc
      · show k < a; omega
      · exact h.1 cell hc

/-- A write keeps the canonical form. -/
theorem Memory.write_wf (m : Memory) (a : Nat) (b : Byte) (ha : a < 65536) (h : Memory.wf m) : Memory.wf (Memory.write m a b) := by
  have hs : (Memory.erase m a).Pairwise (fun p q => p.1 < q.1) := h.1.filter _
  have he : ∀ cell ∈ Memory.erase m a, cell.1 < 65536 ∧ cell.2 ≠ Memory.unlisted :=
    fun cell hc => h.2 cell ((Memory.mem_erase m a cell).1 hc).1
  unfold Memory.write
  split
  · exact ⟨hs, he⟩
  · next hb =>
    refine ⟨Memory.insert_sorted _ _ _ hs (fun cell hc => ((Memory.mem_erase m a cell).1 hc).2), fun cell hc => ?_⟩
    rcases (Memory.mem_insert _ _ _ _).1 hc with rfl | hc
    · exact ⟨ha, hb⟩
    · exact he cell hc

theorem Memory.empty_wf : Memory.wf [] := ⟨List.Pairwise.nil, by simp⟩

end Sys2Proof.Machine
end

