-- ==== Sys2Proof/Laws/State.lean ====
section
/-! SUPPORT. One lemma per field per update: what each named update of State does to each field and reader. -/

namespace Sys2Proof.Machine

/-- Each register reads back what was written to it, and no other is changed (R20). -/
@[simp] theorem State.setReg_reg (s : State) (r q : Reg) (v : Word) : (s.setReg r v).reg q = if q = r then v else s.reg q := by
  cases r <;> cases q <;> rfl

@[simp] theorem State.setReg_sp (s : State) (r : Reg) (v : Word) : (s.setReg r v).sp = s.sp := by cases r <;> rfl
@[simp] theorem State.setReg_pc (s : State) (r : Reg) (v : Word) : (s.setReg r v).pc = s.pc := by cases r <;> rfl
@[simp] theorem State.setReg_ps (s : State) (r : Reg) (v : Word) : (s.setReg r v).ps = s.ps := by cases r <;> rfl
@[simp] theorem State.setReg_flag (s : State) (r : Reg) (v : Word) (f : Flag) : (s.setReg r v).flag f = s.flag f := by cases r <;> rfl
@[simp] theorem State.setReg_mem (s : State) (r : Reg) (v : Word) : (s.setReg r v).mem = s.mem := by cases r <;> rfl
@[simp] theorem State.setReg_map (s : State) (r : Reg) (v : Word) : (s.setReg r v).map = s.map := by cases r <;> rfl
@[simp] theorem State.setReg_inputs (s : State) (r : Reg) (v : Word) : (s.setReg r v).inputs = s.inputs := by cases r <;> rfl
@[simp] theorem State.setReg_prefetch (s : State) (r : Reg) (v : Word) : (s.setReg r v).prefetch = s.prefetch := by cases r <;> rfl
@[simp] theorem State.setReg_devOut (s : State) (r : Reg) (v : Word) : (s.setReg r v).devOut = s.devOut := by cases r <;> rfl
@[simp] theorem State.setReg_epoch (s : State) (r : Reg) (v : Word) : (s.setReg r v).epoch = s.epoch := by cases r <;> rfl
@[simp] theorem State.setReg_region (s : State) (r : Reg) (v : Word) (a : Word) : (s.setReg r v).region a = s.region a := by cases r <;> rfl
@[simp] theorem State.setReg_readByte (s : State) (r : Reg) (v : Word) (k : Access) (a : Word) : (s.setReg r v).readByte k a = s.readByte k a := by cases r <;> rfl

@[simp] theorem State.setSp_reg (s : State) (v : Word) (q : Reg) : (s.setSp v).reg q = s.reg q := rfl
@[simp] theorem State.setSp_sp (s : State) (v : Word) : (s.setSp v).sp = v := rfl
@[simp] theorem State.setSp_pc (s : State) (v : Word) : (s.setSp v).pc = s.pc := rfl
@[simp] theorem State.setSp_ps (s : State) (v : Word) : (s.setSp v).ps = s.ps := rfl
@[simp] theorem State.setSp_flag (s : State) (v : Word) (f : Flag) : (s.setSp v).flag f = s.flag f := rfl
@[simp] theorem State.setSp_mem (s : State) (v : Word) : (s.setSp v).mem = s.mem := rfl
@[simp] theorem State.setSp_map (s : State) (v : Word) : (s.setSp v).map = s.map := rfl
@[simp] theorem State.setSp_inputs (s : State) (v : Word) : (s.setSp v).inputs = s.inputs := rfl
@[simp] theorem State.setSp_prefetch (s : State) (v : Word) : (s.setSp v).prefetch = s.prefetch := rfl
@[simp] theorem State.setSp_devOut (s : State) (v : Word) : (s.setSp v).devOut = s.devOut := rfl
@[simp] theorem State.setSp_epoch (s : State) (v : Word) : (s.setSp v).epoch = s.epoch := rfl
@[simp] theorem State.setSp_region (s : State) (v : Word) (a : Word) : (s.setSp v).region a = s.region a := rfl
@[simp] theorem State.setSp_readByte (s : State) (v : Word) (k : Access) (a : Word) : (s.setSp v).readByte k a = s.readByte k a := rfl

@[simp] theorem State.setPc_reg (s : State) (v : Word) (q : Reg) : (s.setPc v).reg q = s.reg q := rfl
@[simp] theorem State.setPc_sp (s : State) (v : Word) : (s.setPc v).sp = s.sp := rfl
@[simp] theorem State.setPc_pc (s : State) (v : Word) : (s.setPc v).pc = v := rfl
@[simp] theorem State.setPc_ps (s : State) (v : Word) : (s.setPc v).ps = s.ps := rfl
@[simp] theorem State.setPc_flag (s : State) (v : Word) (f : Flag) : (s.setPc v).flag f = s.flag f := rfl
@[simp] theorem State.setPc_mem (s : State) (v : Word) : (s.setPc v).mem = s.mem := rfl
@[simp] theorem State.setPc_map (s : State) (v : Word) : (s.setPc v).map = s.map := rfl
@[simp] theorem State.setPc_inputs (s : State) (v : Word) : (s.setPc v).inputs = s.inputs := rfl
@[simp] theorem State.setPc_prefetch (s : State) (v : Word) : (s.setPc v).prefetch = s.prefetch := rfl
@[simp] theorem State.setPc_devOut (s : State) (v : Word) : (s.setPc v).devOut = s.devOut := rfl
@[simp] theorem State.setPc_epoch (s : State) (v : Word) : (s.setPc v).epoch = s.epoch := rfl
@[simp] theorem State.setPc_region (s : State) (v : Word) (a : Word) : (s.setPc v).region a = s.region a := rfl
@[simp] theorem State.setPc_readByte (s : State) (v : Word) (k : Access) (a : Word) : (s.setPc v).readByte k a = s.readByte k a := rfl

@[simp] theorem State.setPs_reg (s : State) (v : Byte) (q : Reg) : (s.setPs v).reg q = s.reg q := rfl
@[simp] theorem State.setPs_sp (s : State) (v : Byte) : (s.setPs v).sp = s.sp := rfl
@[simp] theorem State.setPs_pc (s : State) (v : Byte) : (s.setPs v).pc = s.pc := rfl
@[simp] theorem State.setPs_ps (s : State) (v : Byte) : (s.setPs v).ps = v := rfl
@[simp] theorem State.setPs_flag (s : State) (v : Byte) (f : Flag) : (s.setPs v).flag f = PS.get v f := rfl
@[simp] theorem State.setPs_mem (s : State) (v : Byte) : (s.setPs v).mem = s.mem := rfl
@[simp] theorem State.setPs_map (s : State) (v : Byte) : (s.setPs v).map = s.map := rfl
@[simp] theorem State.setPs_inputs (s : State) (v : Byte) : (s.setPs v).inputs = s.inputs := rfl
@[simp] theorem State.setPs_prefetch (s : State) (v : Byte) : (s.setPs v).prefetch = s.prefetch := rfl
@[simp] theorem State.setPs_devOut (s : State) (v : Byte) : (s.setPs v).devOut = s.devOut := rfl
@[simp] theorem State.setPs_epoch (s : State) (v : Byte) : (s.setPs v).epoch = s.epoch := rfl
@[simp] theorem State.setPs_region (s : State) (v : Byte) (a : Word) : (s.setPs v).region a = s.region a := rfl
@[simp] theorem State.setPs_readByte (s : State) (v : Byte) (k : Access) (a : Word) : (s.setPs v).readByte k a = s.readByte k a := rfl

@[simp] theorem State.setPrefetch_reg (s : State) (p : Option Byte) (q : Reg) : (s.setPrefetch p).reg q = s.reg q := rfl
@[simp] theorem State.setPrefetch_sp (s : State) (p : Option Byte) : (s.setPrefetch p).sp = s.sp := rfl
@[simp] theorem State.setPrefetch_pc (s : State) (p : Option Byte) : (s.setPrefetch p).pc = s.pc := rfl
@[simp] theorem State.setPrefetch_ps (s : State) (p : Option Byte) : (s.setPrefetch p).ps = s.ps := rfl
@[simp] theorem State.setPrefetch_flag (s : State) (p : Option Byte) (f : Flag) : (s.setPrefetch p).flag f = s.flag f := rfl
@[simp] theorem State.setPrefetch_mem (s : State) (p : Option Byte) : (s.setPrefetch p).mem = s.mem := rfl
@[simp] theorem State.setPrefetch_map (s : State) (p : Option Byte) : (s.setPrefetch p).map = s.map := rfl
@[simp] theorem State.setPrefetch_inputs (s : State) (p : Option Byte) : (s.setPrefetch p).inputs = s.inputs := rfl
@[simp] theorem State.setPrefetch_prefetch (s : State) (p : Option Byte) : (s.setPrefetch p).prefetch = p := rfl
@[simp] theorem State.setPrefetch_devOut (s : State) (p : Option Byte) : (s.setPrefetch p).devOut = s.devOut := rfl
@[simp] theorem State.setPrefetch_epoch (s : State) (p : Option Byte) : (s.setPrefetch p).epoch = s.epoch := rfl
@[simp] theorem State.setPrefetch_region (s : State) (p : Option Byte) (a : Word) : (s.setPrefetch p).region a = s.region a := rfl
@[simp] theorem State.setPrefetch_readByte (s : State) (p : Option Byte) (k : Access) (a : Word) : (s.setPrefetch p).readByte k a = s.readByte k a := rfl

@[simp] theorem State.setMem_reg (s : State) (m : Memory) (q : Reg) : (s.setMem m).reg q = s.reg q := rfl
@[simp] theorem State.setMem_sp (s : State) (m : Memory) : (s.setMem m).sp = s.sp := rfl
@[simp] theorem State.setMem_pc (s : State) (m : Memory) : (s.setMem m).pc = s.pc := rfl
@[simp] theorem State.setMem_ps (s : State) (m : Memory) : (s.setMem m).ps = s.ps := rfl
@[simp] theorem State.setMem_flag (s : State) (m : Memory) (f : Flag) : (s.setMem m).flag f = s.flag f := rfl
@[simp] theorem State.setMem_mem (s : State) (m : Memory) : (s.setMem m).mem = m := rfl
@[simp] theorem State.setMem_map (s : State) (m : Memory) : (s.setMem m).map = s.map := rfl
@[simp] theorem State.setMem_inputs (s : State) (m : Memory) : (s.setMem m).inputs = s.inputs := rfl
@[simp] theorem State.setMem_prefetch (s : State) (m : Memory) : (s.setMem m).prefetch = s.prefetch := rfl
@[simp] theorem State.setMem_devOut (s : State) (m : Memory) : (s.setMem m).devOut = s.devOut := rfl
@[simp] theorem State.setMem_epoch (s : State) (m : Memory) : (s.setMem m).epoch = s.epoch := rfl
@[simp] theorem State.setMem_region (s : State) (m : Memory) (a : Word) : (s.setMem m).region a = s.region a := rfl

@[simp] theorem State.emit_reg (s : State) (w : DeviceWrite) (q : Reg) : (s.emit w).reg q = s.reg q := rfl
@[simp] theorem State.emit_sp (s : State) (w : DeviceWrite) : (s.emit w).sp = s.sp := rfl
@[simp] theorem State.emit_pc (s : State) (w : DeviceWrite) : (s.emit w).pc = s.pc := rfl
@[simp] theorem State.emit_ps (s : State) (w : DeviceWrite) : (s.emit w).ps = s.ps := rfl
@[simp] theorem State.emit_flag (s : State) (w : DeviceWrite) (f : Flag) : (s.emit w).flag f = s.flag f := rfl
@[simp] theorem State.emit_mem (s : State) (w : DeviceWrite) : (s.emit w).mem = s.mem := rfl
@[simp] theorem State.emit_map (s : State) (w : DeviceWrite) : (s.emit w).map = s.map := rfl
@[simp] theorem State.emit_inputs (s : State) (w : DeviceWrite) : (s.emit w).inputs = s.inputs := rfl
@[simp] theorem State.emit_prefetch (s : State) (w : DeviceWrite) : (s.emit w).prefetch = s.prefetch := rfl
@[simp] theorem State.emit_devOut (s : State) (w : DeviceWrite) : (s.emit w).devOut = s.devOut ++ [w] := rfl
@[simp] theorem State.emit_epoch (s : State) (w : DeviceWrite) : (s.emit w).epoch = s.epoch := rfl
@[simp] theorem State.emit_region (s : State) (w : DeviceWrite) (a : Word) : (s.emit w).region a = s.region a := rfl
@[simp] theorem State.emit_readByte (s : State) (w : DeviceWrite) (k : Access) (a : Word) : (s.emit w).readByte k a = s.readByte k a := rfl

@[simp] theorem State.passBoundary_reg (s : State) (q : Reg) : (s.passBoundary).reg q = s.reg q := rfl
@[simp] theorem State.passBoundary_sp (s : State) : (s.passBoundary).sp = s.sp := rfl
@[simp] theorem State.passBoundary_pc (s : State) : (s.passBoundary).pc = s.pc := rfl
@[simp] theorem State.passBoundary_ps (s : State) : (s.passBoundary).ps = s.ps := rfl
@[simp] theorem State.passBoundary_flag (s : State) (f : Flag) : (s.passBoundary).flag f = s.flag f := rfl
@[simp] theorem State.passBoundary_mem (s : State) : (s.passBoundary).mem = s.mem := rfl
@[simp] theorem State.passBoundary_map (s : State) : (s.passBoundary).map = s.map := rfl
@[simp] theorem State.passBoundary_inputs (s : State) : (s.passBoundary).inputs = s.inputs.tail := rfl
@[simp] theorem State.passBoundary_prefetch (s : State) : (s.passBoundary).prefetch = none := rfl
@[simp] theorem State.passBoundary_devOut (s : State) : (s.passBoundary).devOut = s.devOut := rfl
@[simp] theorem State.passBoundary_epoch (s : State) : (s.passBoundary).epoch = s.epoch := rfl
@[simp] theorem State.passBoundary_region (s : State) (a : Word) : (s.passBoundary).region a = s.region a := rfl
@[simp] theorem State.passBoundary_readByte (s : State) (k : Access) (a : Word) : (s.passBoundary).readByte k a = s.readByte k a := rfl

@[simp] theorem State.nextEpoch_reg (s : State) (q : Reg) : (s.nextEpoch).reg q = s.reg q := rfl
@[simp] theorem State.nextEpoch_sp (s : State) : (s.nextEpoch).sp = s.sp := rfl
@[simp] theorem State.nextEpoch_pc (s : State) : (s.nextEpoch).pc = s.pc := rfl
@[simp] theorem State.nextEpoch_ps (s : State) : (s.nextEpoch).ps = s.ps := rfl
@[simp] theorem State.nextEpoch_flag (s : State) (f : Flag) : (s.nextEpoch).flag f = s.flag f := rfl
@[simp] theorem State.nextEpoch_mem (s : State) : (s.nextEpoch).mem = s.mem := rfl
@[simp] theorem State.nextEpoch_map (s : State) : (s.nextEpoch).map = s.map := rfl
@[simp] theorem State.nextEpoch_inputs (s : State) : (s.nextEpoch).inputs = s.inputs := rfl
@[simp] theorem State.nextEpoch_prefetch (s : State) : (s.nextEpoch).prefetch = s.prefetch := rfl
@[simp] theorem State.nextEpoch_devOut (s : State) : (s.nextEpoch).devOut = s.devOut := rfl
@[simp] theorem State.nextEpoch_epoch (s : State) : (s.nextEpoch).epoch = s.epoch + 1 := rfl
@[simp] theorem State.nextEpoch_region (s : State) (a : Word) : (s.nextEpoch).region a = s.region a := rfl

end Sys2Proof.Machine
end

