-- ==== Sys2Proof/Laws/Ops.lean ====
section
/-! SUPPORT. One lemma for each shared operation over memory, the stack and traps, saying once what it can do (spec R50 to
R53, R160, R241, R249, R283). -/

namespace Sys2Proof.Machine

/-! A byte store. -/

@[simp] theorem State.writeByte_reg (s : State) (a : Word) (v : Byte) (q : Reg) : (s.writeByte a v).reg q = s.reg q := by
  unfold State.writeByte; split <;> rfl
@[simp] theorem State.writeByte_sp (s : State) (a : Word) (v : Byte) : (s.writeByte a v).sp = s.sp := by
  unfold State.writeByte; split <;> rfl
@[simp] theorem State.writeByte_pc (s : State) (a : Word) (v : Byte) : (s.writeByte a v).pc = s.pc := by
  unfold State.writeByte; split <;> rfl
@[simp] theorem State.writeByte_ps (s : State) (a : Word) (v : Byte) : (s.writeByte a v).ps = s.ps := by
  unfold State.writeByte; split <;> rfl
@[simp] theorem State.writeByte_flag (s : State) (a : Word) (v : Byte) (f : Flag) : (s.writeByte a v).flag f = s.flag f := by
  unfold State.writeByte; split <;> rfl
@[simp] theorem State.writeByte_map (s : State) (a : Word) (v : Byte) : (s.writeByte a v).map = s.map := by
  unfold State.writeByte; split <;> rfl
@[simp] theorem State.writeByte_inputs (s : State) (a : Word) (v : Byte) : (s.writeByte a v).inputs = s.inputs := by
  unfold State.writeByte; split <;> rfl
@[simp] theorem State.writeByte_epoch (s : State) (a : Word) (v : Byte) : (s.writeByte a v).epoch = s.epoch := by
  unfold State.writeByte; split <;> rfl
@[simp] theorem State.writeByte_prefetch (s : State) (a : Word) (v : Byte) : (s.writeByte a v).prefetch = s.prefetch := by
  unfold State.writeByte; split <;> rfl
@[simp] theorem State.writeByte_region (s : State) (a : Word) (v : Byte) (b : Word) : (s.writeByte a v).region b = s.region b := by
  unfold State.writeByte; split <;> rfl

/-- What every address reads as after a byte store (R50, R52). -/
theorem State.writeByte_readByte (s : State) (a : Word) (v : Byte) (k : Access) (b : Word) :
    (s.writeByte a v).readByte k b = if b = a ∧ s.region a = .ram then v else s.readByte k b := by
  unfold State.writeByte
  split <;> rename_i h
  · by_cases hb : b = a
    · subst hb; simp [State.readByte, h, Memory.read_write]
    · have : b.toNat ≠ a.toNat := fun e => hb (BitVec.eq_of_toNat_eq e)
      simp [State.readByte, Memory.read_write, hb, this]
  · simp [h]
  · simp [h]
  · simp [h]

theorem State.writeByte_devOut (s : State) (a : Word) (v : Byte) :
    (s.writeByte a v).devOut = s.devOut ++ byteToDevices s a v := by
  unfold State.writeByte byteToDevices
  split <;> rename_i h <;> simp [h, State.emit]

/-- A byte store changes the contents of memory at its own address only, and only where that is ram (R52). -/
theorem State.writeByte_memRead (s : State) (a : Word) (v : Byte) (b : Word) :
    Memory.read (s.writeByte a v).mem b.toNat = if b = a ∧ s.region a = .ram then v else Memory.read s.mem b.toNat := by
  unfold State.writeByte
  split <;> rename_i h
  · by_cases hb : b = a
    · subst hb; simp [h, Memory.read_write]
    · have : b.toNat ≠ a.toNat := fun e => hb (BitVec.eq_of_toNat_eq e)
      simp [Memory.read_write, hb, this]
  · simp [h]
  · simp [h]
  · simp [h]

theorem State.writeByte_wf (s : State) (a : Word) (v : Byte) (h : Memory.wf s.mem) : Memory.wf (s.writeByte a v).mem := by
  unfold State.writeByte
  split
  · exact Memory.write_wf _ _ _ a.isLt h
  · exact h
  · exact h
  · exact h

/-- A byte store, said once (R52). -/
theorem State.writeByte_stored (s : State) (a : Word) (v : Byte) : ByteStored s (s.writeByte a v) a v := by
  refine ⟨fun k b hb => ?_, fun k => ⟨fun h => ?_, fun h => ?_⟩, State.writeByte_devOut s a v⟩
  · have hb : b ≠ a := by simpa using hb
    simp [State.writeByte_readByte, hb]
  · simp [State.writeByte_readByte, h]
  · simp [State.writeByte_readByte, h]

/-! A word store. -/

@[simp] theorem State.writeWord_reg (s : State) (a v : Word) (q : Reg) : (s.writeWord a v).reg q = s.reg q := by
  unfold State.writeWord; split <;> simp
@[simp] theorem State.writeWord_sp (s : State) (a v : Word) : (s.writeWord a v).sp = s.sp := by
  unfold State.writeWord; split <;> simp
@[simp] theorem State.writeWord_pc (s : State) (a v : Word) : (s.writeWord a v).pc = s.pc := by
  unfold State.writeWord; split <;> simp
@[simp] theorem State.writeWord_ps (s : State) (a v : Word) : (s.writeWord a v).ps = s.ps := by
  unfold State.writeWord; split <;> simp
@[simp] theorem State.writeWord_flag (s : State) (a v : Word) (f : Flag) : (s.writeWord a v).flag f = s.flag f := by
  unfold State.writeWord; split <;> simp
@[simp] theorem State.writeWord_map (s : State) (a v : Word) : (s.writeWord a v).map = s.map := by
  unfold State.writeWord; split <;> simp
@[simp] theorem State.writeWord_inputs (s : State) (a v : Word) : (s.writeWord a v).inputs = s.inputs := by
  unfold State.writeWord; split <;> simp
@[simp] theorem State.writeWord_epoch (s : State) (a v : Word) : (s.writeWord a v).epoch = s.epoch := by
  unfold State.writeWord; split <;> simp
@[simp] theorem State.writeWord_prefetch (s : State) (a v : Word) : (s.writeWord a v).prefetch = s.prefetch := by
  unfold State.writeWord; split <;> simp
@[simp] theorem State.writeWord_region (s : State) (a v b : Word) : (s.writeWord a v).region b = s.region b := by
  unfold State.writeWord; split <;> simp

/-- The two bytes of a word are at different addresses (R53). -/
theorem word_addr_ne (a : Word) : a + 1#16 ≠ a := by
  intro h
  have := congrArg BitVec.toNat h
  simp only [BitVec.toNat_add, BitVec.toNat_ofNat] at this
  have := a.isLt
  omega

/-- What every address reads as after a word store (R50, R52). -/
theorem State.writeWord_readByte (s : State) (a v : Word) (k : Access) (b : Word) :
    (s.writeWord a v).readByte k b =
      if b = a + 1#16 ∧ s.region (a + 1#16) = .ram then hiByte v
      else if b = a ∧ s.region a = .ram then loByte v else s.readByte k b := by
  unfold State.writeWord
  split <;> rename_i h
  · simp [h.1, h.2]
  · simp [State.writeByte_readByte]

theorem State.writeWord_memRead (s : State) (a v b : Word) :
    Memory.read (s.writeWord a v).mem b.toNat =
      if b = a + 1#16 ∧ s.region (a + 1#16) = .ram then hiByte v
      else if b = a ∧ s.region a = .ram then loByte v else Memory.read s.mem b.toNat := by
  unfold State.writeWord
  split <;> rename_i h
  · simp [h.1, h.2]
  · simp [State.writeByte_memRead]

theorem State.writeWord_devOut (s : State) (a v : Word) : (s.writeWord a v).devOut = s.devOut ++ wordToDevices s a v := by
  unfold State.writeWord wordToDevices
  split <;> rename_i h
  · rfl
  · simp [State.writeByte_devOut, byteToDevices]

theorem State.writeWord_wf (s : State) (a v : Word) (h : Memory.wf s.mem) : Memory.wf (s.writeWord a v).mem := by
  unfold State.writeWord
  split
  · exact h
  · exact State.writeByte_wf _ _ _ (State.writeByte_wf _ _ _ h)

theorem loByte_toNat (v : Word) : (loByte v).toNat = v.toNat % 256 := by simp [loByte]
theorem hiByte_toNat (v : Word) : (hiByte v).toNat = v.toNat / 256 := by
  have := v.isLt
  simp [hiByte, Nat.shiftRight_eq_div_pow]; omega
theorem joinBytes_toNat (lo hi : Byte) : (joinBytes lo hi).toNat = lo.toNat + 256 * hi.toNat := by
  have := lo.isLt
  show (hi ++ lo).toNat = _
  rw [BitVec.toNat_append, ← Nat.shiftLeft_add_eq_or_of_lt (by omega), Nat.shiftLeft_eq]; omega
theorem joinBytes_lo_hi (v : Word) : joinBytes (loByte v) (hiByte v) = v := by
  apply BitVec.eq_of_toNat_eq
  rw [joinBytes_toNat, loByte_toNat, hiByte_toNat]; omega

/-- A word store, said once (R52, R53). -/
theorem State.writeWord_stored (s : State) (a v : Word) : WordStored s (s.writeWord a v) a v := by
  have hne := word_addr_ne a
  refine ⟨fun k b hb => ?_, fun k => ⟨fun h => ?_, fun h => ?_⟩, fun k => ⟨fun h => ?_, fun h => ?_⟩, State.writeWord_devOut s a v⟩
  · simp only [List.mem_cons, List.not_mem_nil, or_false, not_or] at hb
    simp [State.writeWord_readByte, hb.1, hb.2]
  · simp [State.writeWord_readByte, h, hne.symm, loByte_toNat]
  · simp [State.writeWord_readByte, h, hne.symm]
  · simp [State.writeWord_readByte, h, hiByte_toNat]
  · simp [State.writeWord_readByte, h, hne]

/-! The stack. -/

/-- A pushed word (R160): SP two lower and the word stored there. -/
theorem State.pushWord_stored (s : State) (v : Word) :
    (s.pushWord v).sp = s.sp - 2#16 ∧ WordStored s (s.pushWord v) (s.sp - 2#16) v := by
  refine ⟨by simp [State.pushWord], ?_⟩
  have h := State.writeWord_stored (s.setSp (s.sp - 2#16)) (s.sp - 2#16) v
  exact ⟨h.1, h.2.1, h.2.2.1, h.2.2.2⟩

/-- A pushed byte (R160): SP one lower and the byte stored there. -/
theorem State.pushByte_stored (s : State) (v : Byte) :
    (s.pushByte v).sp = s.sp - 1#16 ∧ ByteStored s (s.pushByte v) (s.sp - 1#16) v := by
  refine ⟨by simp [State.pushByte], ?_⟩
  have h := State.writeByte_stored (s.setSp (s.sp - 1#16)) (s.sp - 1#16) v
  exact ⟨h.1, h.2.1, h.2.2⟩

/-- A read word, as the spec puts it (R51, R53). -/
theorem State.readWord_toNat (s : State) (k : Access) (a : Word) :
    (s.readWord k a).toNat = (s.readByte k a).toNat + 256 * (s.readByte k (a + 1#16)).toNat := joinBytes_toNat _ _

/-! Traps. -/

/-- Trap entry, said once (R241). -/
theorem State.trapEntry_entered (s : State) (ret vec : Word) :
    TrapEntered s (s.trapEntry ret vec) s.ps ret vec ∧ PlatformKept s (s.trapEntry ret vec) ∧
      (s.trapEntry ret vec).prefetch = s.prefetch := by
  have e1 : s.sp - 2#16 - 1#16 = s.sp - 3#16 := by bv_omega
  have e2 : s.sp - 2#16 + 1#16 = s.sp - 1#16 := by bv_omega
  have n1 : s.sp - 2#16 ≠ s.sp - 3#16 := by bv_omega
  have n2 : s.sp - 1#16 ≠ s.sp - 3#16 := by bv_omega
  have n3 : s.sp - 1#16 ≠ s.sp - 2#16 := by bv_omega
  refine ⟨⟨rfl, ?_, ?_, ?_, ?_, ?_, ?_, ?_, ?_, ?_⟩, ⟨?_, ?_, ?_⟩, ?_⟩
  · simp [State.trapEntry, State.pushWord, State.pushByte, e1]
  · simp [State.trapEntry, State.pushWord, State.pushByte]
  · intro f hf; simp [State.trapEntry, State.pushWord, State.pushByte, hf]
  · intro r _; simp [State.trapEntry, State.pushWord, State.pushByte]
  · intro k a ha
    simp only [List.mem_cons, List.not_mem_nil, or_false, not_or] at ha
    simp [State.trapEntry, State.pushWord, State.pushByte, State.writeByte_readByte, State.writeWord_readByte, e1, e2, ha]
  · intro k
    constructor <;> intro h <;>
      simp [State.trapEntry, State.pushWord, State.pushByte, State.writeByte_readByte, State.writeWord_readByte, e1, e2, h,
        n1.symm, n2.symm]
  · intro k
    constructor <;> intro h <;>
      simp [State.trapEntry, State.pushWord, State.pushByte, State.writeByte_readByte, State.writeWord_readByte, e1, e2, h,
        n1, n3.symm, loByte_toNat]
  · intro k
    constructor <;> intro h <;>
      simp [State.trapEntry, State.pushWord, State.pushByte, State.writeByte_readByte, State.writeWord_readByte, e1, e2, h,
        n2, n3, hiByte_toNat]
  · simp [State.trapEntry, State.pushWord, State.pushByte, State.writeByte_devOut, State.writeWord_devOut, e1,
      wordToDevices, byteToDevices]
    rfl
  · simp [State.trapEntry, State.pushWord, State.pushByte]
  · simp [State.trapEntry, State.pushWord, State.pushByte]
  · simp [State.trapEntry, State.pushWord, State.pushByte]
  · simp [State.trapEntry, State.pushWord, State.pushByte]

theorem State.trapEntry_wf (s : State) (ret vec : Word) (h : Memory.wf s.mem) : Memory.wf (s.trapEntry ret vec).mem := by
  have := State.writeByte_wf ((s.pushWord ret).setSp ((s.pushWord ret).sp - 1#16)) ((s.pushWord ret).sp - 1#16) s.ps
    (by simpa [State.pushWord] using State.writeWord_wf (s.setSp (s.sp - 2#16)) (s.sp - 2#16) ret h)
  simpa [State.trapEntry, State.pushByte] using this

/-- The return from a trap, said once (R208): PS from the byte at SP, the pc from the word above it. -/
theorem State.trapReturn_spec (s : State) :
    s.trapReturn.ps = s.readByte .data s.sp ∧
      s.trapReturn.pc.toNat =
        (s.readByte .data (s.sp + 1#16)).toNat + 256 * (s.readByte .data (s.sp + 2#16)).toNat ∧
      s.trapReturn.sp = s.sp + 3#16 ∧ RegsKept s s.trapReturn [] ∧ NoStore s s.trapReturn := by
  have e1 : s.sp + 1#16 + 1#16 = s.sp + 2#16 := by bv_omega
  have e2 : s.sp + 1#16 + 2#16 = s.sp + 3#16 := by bv_omega
  refine ⟨rfl, ?_, ?_, fun r _ => rfl, fun k a _ => rfl, rfl, rfl, rfl, rfl, rfl⟩
  · simp [State.trapReturn, State.dropByte, State.dropWord, State.topWord, State.readWord_toNat, e1]
  · simp [State.trapReturn, State.dropByte, State.dropWord, e2]

/-! Retiring a store. -/

@[simp] theorem State.advance_pc (s : State) (len : Nat) : (s.advance len).pc = s.nextPc len := rfl
@[simp] theorem State.advance_reg (s : State) (len : Nat) (r : Reg) : (s.advance len).reg r = s.reg r := rfl
@[simp] theorem State.advance_sp (s : State) (len : Nat) : (s.advance len).sp = s.sp := rfl
@[simp] theorem State.advance_ps (s : State) (len : Nat) : (s.advance len).ps = s.ps := rfl
@[simp] theorem State.advance_flag (s : State) (len : Nat) (f : Flag) : (s.advance len).flag f = s.flag f := rfl
@[simp] theorem State.advance_mem (s : State) (len : Nat) : (s.advance len).mem = s.mem := rfl
@[simp] theorem State.advance_map (s : State) (len : Nat) : (s.advance len).map = s.map := rfl
@[simp] theorem State.advance_inputs (s : State) (len : Nat) : (s.advance len).inputs = s.inputs := rfl
@[simp] theorem State.advance_prefetch (s : State) (len : Nat) : (s.advance len).prefetch = s.prefetch := rfl
@[simp] theorem State.advance_devOut (s : State) (len : Nat) : (s.advance len).devOut = s.devOut := rfl
@[simp] theorem State.advance_epoch (s : State) (len : Nat) : (s.advance len).epoch = s.epoch := rfl
@[simp] theorem State.advance_region (s : State) (len : Nat) (a : Word) : (s.advance len).region a = s.region a := rfl
@[simp] theorem State.advance_readByte (s : State) (len : Nat) (k : Access) (a : Word) :
    (s.advance len).readByte k a = s.readByte k a := rfl

@[simp] theorem State.retireStore_pc (s t : State) (len : Nat) : (s.retireStore t len).pc = s.nextPc len := rfl
@[simp] theorem State.retireStore_reg (s t : State) (len : Nat) (r : Reg) : (s.retireStore t len).reg r = t.reg r := rfl
@[simp] theorem State.retireStore_sp (s t : State) (len : Nat) : (s.retireStore t len).sp = t.sp := rfl
@[simp] theorem State.retireStore_ps (s t : State) (len : Nat) : (s.retireStore t len).ps = t.ps := rfl
@[simp] theorem State.retireStore_flag (s t : State) (len : Nat) (f : Flag) : (s.retireStore t len).flag f = t.flag f := rfl
@[simp] theorem State.retireStore_mem (s t : State) (len : Nat) : (s.retireStore t len).mem = t.mem := rfl
@[simp] theorem State.retireStore_map (s t : State) (len : Nat) : (s.retireStore t len).map = t.map := rfl
@[simp] theorem State.retireStore_inputs (s t : State) (len : Nat) : (s.retireStore t len).inputs = t.inputs := rfl
@[simp] theorem State.retireStore_devOut (s t : State) (len : Nat) : (s.retireStore t len).devOut = t.devOut := rfl
@[simp] theorem State.retireStore_epoch (s t : State) (len : Nat) : (s.retireStore t len).epoch = t.epoch := rfl
@[simp] theorem State.retireStore_region (s t : State) (len : Nat) (a : Word) :
    (s.retireStore t len).region a = t.region a := rfl
@[simp] theorem State.retireStore_readByte (s t : State) (len : Nat) (k : Access) (a : Word) :
    (s.retireStore t len).readByte k a = t.readByte k a := rfl

/-- A state `t` whose memory differs from that of `s` at ram addresses only. -/
def RamDiffers (s t : State) : Prop :=
  (∀ a, t.region a = s.region a) ∧ t.epoch = s.epoch ∧
    ∀ a : Word, Memory.read t.mem a.toNat ≠ Memory.read s.mem a.toNat → s.region a = .ram

/-- What waits as prefetched after a store is the old byte at the next pc, exactly where the store changed it (R283). -/
theorem State.retireStore_prefetch (s t : State) (len : Nat) (h : RamDiffers s t) :
    PrefetchAfterStore s (s.retireStore t len) := by
  obtain ⟨hr, he, hm⟩ := h
  have hf : ∀ a, t.readByte .fetch a ≠ s.readByte .fetch a ↔ Memory.read t.mem a.toNat ≠ Memory.read s.mem a.toNat := by
    intro a
    constructor
    · intro hne heq
      apply hne
      simp only [State.readByte, hr, he, heq]
    · intro hne
      have hram := hm a hne
      simpa [State.readByte, hr, hram] using hne
  intro old
  simp only [State.retireStore, State.setPrefetch_prefetch, State.setPrefetch_pc, State.setPrefetch_readByte, State.setPc_pc,
    State.setPc_readByte, staleOpcode]
  rw [hf]
  by_cases hq : Memory.read s.mem (s.nextPc len).toNat = Memory.read t.mem (s.nextPc len).toNat
  · simp [hq]
  · have hram := hm _ (Ne.symm hq)
    simp [hq, Ne.symm hq, State.readByte, hram, eq_comm]

theorem State.writeByte_ramDiffers (s : State) (a : Word) (v : Byte) : RamDiffers s (s.writeByte a v) := by
  refine ⟨by simp, by simp, fun b hb => ?_⟩
  rw [State.writeByte_memRead] at hb
  by_cases h : b = a ∧ s.region a = .ram
  · rw [h.1]; exact h.2
  · simp [h] at hb

theorem State.writeWord_ramDiffers (s : State) (a v : Word) : RamDiffers s (s.writeWord a v) := by
  refine ⟨by simp, by simp, fun b hb => ?_⟩
  rw [State.writeWord_memRead] at hb
  by_cases h : b = a + 1#16 ∧ s.region (a + 1#16) = .ram
  · rw [h.1]; exact h.2
  · by_cases h' : b = a ∧ s.region a = .ram
    · rw [h'.1]; exact h'.2
    · simp [h, h'] at hb

end Sys2Proof.Machine
end

