-- ==== Sys2Proof/Laws/PerInstr.lean ====
section
/-! SUPPORT. Statements about every instruction as syntax, one lemma for each constructor. -/

namespace Sys2Proof.Laws.EncodedLength

/-- The encoding of an instruction is as long as its format says, and its first byte alone tells that length (R80, R83). -/
def Statement (i : Instr) : Prop := (encode i).length = i.len ∧ lengthOfFirstByte ((encode i).getD 0 0#8) = i.len

theorem move (ra : Reg) (rb : Reg) : Statement (.move ra rb) := by cases ra <;> cases rb <;> exact ⟨rfl, rfl⟩
theorem sxt (ra : Reg) : Statement (.sxt ra) := by cases ra <;> exact ⟨rfl, rfl⟩
theorem and (ra : Reg) (rb : Reg) : Statement (.and ra rb) := by cases ra <;> cases rb <;> exact ⟨rfl, rfl⟩
theorem test (ra : Reg) : Statement (.test ra) := by cases ra <;> exact ⟨rfl, rfl⟩
theorem xor (ra : Reg) (rb : Reg) : Statement (.xor ra rb) := by cases ra <;> cases rb <;> exact ⟨rfl, rfl⟩
theorem clr (ra : Reg) : Statement (.clr ra) := by cases ra <;> exact ⟨rfl, rfl⟩
theorem or (ra : Reg) (rb : Reg) : Statement (.or ra rb) := by cases ra <;> cases rb <;> exact ⟨rfl, rfl⟩
theorem inv (ra : Reg) : Statement (.inv ra) := by cases ra <;> exact ⟨rfl, rfl⟩
theorem add (ra : Reg) (rb : Reg) : Statement (.add ra rb) := by cases ra <;> cases rb <;> exact ⟨rfl, rfl⟩
theorem addq (ra : Reg) (q : Small) : Statement (.addq ra q) := by cases ra <;> cases q <;> exact ⟨rfl, rfl⟩
theorem sub (ra : Reg) (rb : Reg) : Statement (.sub ra rb) := by cases ra <;> cases rb <;> exact ⟨rfl, rfl⟩
theorem neg (ra : Reg) : Statement (.neg ra) := by cases ra <;> exact ⟨rfl, rfl⟩
theorem cmp (ra : Reg) (rb : Reg) : Statement (.cmp ra rb) := by cases ra <;> cases rb <;> exact ⟨rfl, rfl⟩
theorem abs (ra : Reg) : Statement (.abs ra) := by cases ra <;> exact ⟨rfl, rfl⟩
theorem ldwInd (rc : DataReg) (ri : IndexReg) : Statement (.ldwInd rc ri) := by cases rc <;> cases ri <;> exact ⟨rfl, rfl⟩
theorem ldbInd (rc : DataReg) (ri : IndexReg) : Statement (.ldbInd rc ri) := by cases rc <;> cases ri <;> exact ⟨rfl, rfl⟩
theorem stwInd (rc : DataReg) (ri : IndexReg) : Statement (.stwInd rc ri) := by cases rc <;> cases ri <;> exact ⟨rfl, rfl⟩
theorem stbInd (rc : DataReg) (ri : IndexReg) : Statement (.stbInd rc ri) := by cases rc <;> cases ri <;> exact ⟨rfl, rfl⟩
theorem ldwInc (rc : DataReg) (ri : IndexReg) : Statement (.ldwInc rc ri) := by cases rc <;> cases ri <;> exact ⟨rfl, rfl⟩
theorem ldbInc (rc : DataReg) (ri : IndexReg) : Statement (.ldbInc rc ri) := by cases rc <;> cases ri <;> exact ⟨rfl, rfl⟩
theorem stwInc (rc : DataReg) (ri : IndexReg) : Statement (.stwInc rc ri) := by cases rc <;> cases ri <;> exact ⟨rfl, rfl⟩
theorem stbInc (rc : DataReg) (ri : IndexReg) : Statement (.stbInc rc ri) := by cases rc <;> cases ri <;> exact ⟨rfl, rfl⟩
theorem ldwSp (ra : Reg) (m : Byte) : Statement (.ldwSp ra m) := by cases ra <;> exact ⟨rfl, rfl⟩
theorem ldbSp (ra : Reg) (m : Byte) : Statement (.ldbSp ra m) := by cases ra <;> exact ⟨rfl, rfl⟩
theorem stwSp (ra : Reg) (m : Byte) : Statement (.stwSp ra m) := by cases ra <;> exact ⟨rfl, rfl⟩
theorem stbSp (ra : Reg) (m : Byte) : Statement (.stbSp ra m) := by cases ra <;> exact ⟨rfl, rfl⟩
theorem ldwAbs (ra : Reg) (addr : Word) : Statement (.ldwAbs ra addr) := by cases ra <;> exact ⟨rfl, rfl⟩
theorem ldbAbs (ra : Reg) (addr : Word) : Statement (.ldbAbs ra addr) := by cases ra <;> exact ⟨rfl, rfl⟩
theorem stwAbs (ra : Reg) (addr : Word) : Statement (.stwAbs ra addr) := by cases ra <;> exact ⟨rfl, rfl⟩
theorem stbAbs (ra : Reg) (addr : Word) : Statement (.stbAbs ra addr) := by cases ra <;> exact ⟨rfl, rfl⟩
theorem popReg (ra : Reg) : Statement (.popReg ra) := by cases ra <;> exact ⟨rfl, rfl⟩
theorem popPs : Statement (.popPs) := ⟨rfl, rfl⟩
theorem nopC5 : Statement (.nopC5) := ⟨rfl, rfl⟩
theorem ret : Statement (.ret) := ⟨rfl, rfl⟩
theorem reti : Statement (.reti) := ⟨rfl, rfl⟩
theorem pushReg (ra : Reg) : Statement (.pushReg ra) := by cases ra <;> exact ⟨rfl, rfl⟩
theorem pushPs : Statement (.pushPs) := ⟨rfl, rfl⟩
theorem trap : Statement (.trap) := ⟨rfl, rfl⟩
theorem jsrR0 : Statement (.jsrR0) := ⟨rfl, rfl⟩
theorem jsrAbs (addr : Word) : Statement (.jsrAbs addr) := ⟨rfl, rfl⟩
theorem ldwImm (ra : Reg) (imm : Word) : Statement (.ldwImm ra imm) := by cases ra <;> exact ⟨rfl, rfl⟩
theorem ldbImm (ra : Reg) (imm : Byte) : Statement (.ldbImm ra imm) := by cases ra <;> exact ⟨rfl, rfl⟩
theorem lslImm (ra : Reg) (n : BitVec 5) : Statement (.lslImm ra n) := by cases ra <;> exact ⟨rfl, rfl⟩
theorem lslReg (ra : Reg) (rp : Reg) : Statement (.lslReg ra rp) := by cases ra <;> exact ⟨rfl, rfl⟩
theorem lsrReg (ra : Reg) (rp : Reg) : Statement (.lsrReg ra rp) := by cases ra <;> exact ⟨rfl, rfl⟩
theorem lslWt (ra : Reg) (rp : Reg) : Statement (.lslWt ra rp) := by cases ra <;> exact ⟨rfl, rfl⟩
theorem lsrWt (ra : Reg) (rp : Reg) : Statement (.lsrWt ra rp) := by cases ra <;> exact ⟨rfl, rfl⟩
theorem aslImm (ra : Reg) (n : BitVec 5) : Statement (.aslImm ra n) := by cases ra <;> exact ⟨rfl, rfl⟩
theorem aslReg (ra : Reg) (rp : Reg) : Statement (.aslReg ra rp) := by cases ra <;> exact ⟨rfl, rfl⟩
theorem asrReg (ra : Reg) (rp : Reg) : Statement (.asrReg ra rp) := by cases ra <;> exact ⟨rfl, rfl⟩
theorem aslWt (ra : Reg) (rp : Reg) : Statement (.aslWt ra rp) := by cases ra <;> exact ⟨rfl, rfl⟩
theorem asrWt (ra : Reg) (rp : Reg) : Statement (.asrWt ra rp) := by cases ra <;> exact ⟨rfl, rfl⟩
theorem rolImm (ra : Reg) (n : BitVec 5) : Statement (.rolImm ra n) := by cases ra <;> exact ⟨rfl, rfl⟩
theorem rolReg (ra : Reg) (rp : Reg) : Statement (.rolReg ra rp) := by cases ra <;> exact ⟨rfl, rfl⟩
theorem rorReg (ra : Reg) (rp : Reg) : Statement (.rorReg ra rp) := by cases ra <;> exact ⟨rfl, rfl⟩
theorem rolWt (ra : Reg) (rp : Reg) : Statement (.rolWt ra rp) := by cases ra <;> exact ⟨rfl, rfl⟩
theorem rorWt (ra : Reg) (rp : Reg) : Statement (.rorWt ra rp) := by cases ra <;> exact ⟨rfl, rfl⟩
theorem roxlImm (ra : Reg) (n : BitVec 5) : Statement (.roxlImm ra n) := by cases ra <;> exact ⟨rfl, rfl⟩
theorem roxlReg (ra : Reg) (rp : Reg) : Statement (.roxlReg ra rp) := by cases ra <;> exact ⟨rfl, rfl⟩
theorem roxrReg (ra : Reg) (rp : Reg) : Statement (.roxrReg ra rp) := by cases ra <;> exact ⟨rfl, rfl⟩
theorem roxlWt (ra : Reg) (rp : Reg) : Statement (.roxlWt ra rp) := by cases ra <;> exact ⟨rfl, rfl⟩
theorem roxrWt (ra : Reg) (rp : Reg) : Statement (.roxrWt ra rp) := by cases ra <;> exact ⟨rfl, rfl⟩
theorem shReserved (ra : Reg) (fn : BitVec 2) (lr : BitVec 1) (w : BitVec 1) (rp : Reg) : Statement (.shReserved ra fn lr w rp) := by cases ra <;> exact ⟨rfl, rfl⟩
theorem btstImm (ra : Reg) (k : BitVec 4) : Statement (.btstImm ra k) := by cases ra <;> exact ⟨rfl, rfl⟩
theorem btstReg (ra : Reg) (rp : Reg) : Statement (.btstReg ra rp) := by cases ra <;> exact ⟨rfl, rfl⟩
theorem bchgImm (ra : Reg) (k : BitVec 4) : Statement (.bchgImm ra k) := by cases ra <;> exact ⟨rfl, rfl⟩
theorem bchgReg (ra : Reg) (rp : Reg) : Statement (.bchgReg ra rp) := by cases ra <;> exact ⟨rfl, rfl⟩
theorem bclrImm (ra : Reg) (k : BitVec 4) : Statement (.bclrImm ra k) := by cases ra <;> exact ⟨rfl, rfl⟩
theorem bclrReg (ra : Reg) (rp : Reg) : Statement (.bclrReg ra rp) := by cases ra <;> exact ⟨rfl, rfl⟩
theorem bsetImm (ra : Reg) (k : BitVec 4) : Statement (.bsetImm ra k) := by cases ra <;> exact ⟨rfl, rfl⟩
theorem bsetReg (ra : Reg) (rp : Reg) : Statement (.bsetReg ra rp) := by cases ra <;> exact ⟨rfl, rfl⟩
theorem bitImmReserved (ra : Reg) (fn : BitVec 2) (k : BitVec 4) : Statement (.bitImmReserved ra fn k) := by cases ra <;> exact ⟨rfl, rfl⟩
theorem bitRegReserved (ra : Reg) (fn : BitVec 2) (zero : BitVec 3) (rp : Reg) : Statement (.bitRegReserved ra fn zero rp) := by cases ra <;> exact ⟨rfl, rfl⟩
theorem buc (d : Byte) : Statement (.buc d) := ⟨rfl, rfl⟩
theorem bus (d : Byte) : Statement (.bus d) := ⟨rfl, rfl⟩
theorem bhi (d : Byte) : Statement (.bhi d) := ⟨rfl, rfl⟩
theorem bls (d : Byte) : Statement (.bls d) := ⟨rfl, rfl⟩
theorem bcc (d : Byte) : Statement (.bcc d) := ⟨rfl, rfl⟩
theorem bcs (d : Byte) : Statement (.bcs d) := ⟨rfl, rfl⟩
theorem bne (d : Byte) : Statement (.bne d) := ⟨rfl, rfl⟩
theorem beq (d : Byte) : Statement (.beq d) := ⟨rfl, rfl⟩
theorem bvc (d : Byte) : Statement (.bvc d) := ⟨rfl, rfl⟩
theorem bvs (d : Byte) : Statement (.bvs d) := ⟨rfl, rfl⟩
theorem bpl (d : Byte) : Statement (.bpl d) := ⟨rfl, rfl⟩
theorem bmi (d : Byte) : Statement (.bmi d) := ⟨rfl, rfl⟩
theorem bge (d : Byte) : Statement (.bge d) := ⟨rfl, rfl⟩
theorem blt (d : Byte) : Statement (.blt d) := ⟨rfl, rfl⟩
theorem bgt (d : Byte) : Statement (.bgt d) := ⟨rfl, rfl⟩
theorem ble (d : Byte) : Statement (.ble d) := ⟨rfl, rfl⟩
theorem moveR0Sp : Statement (.moveR0Sp) := ⟨rfl, rfl⟩
theorem moveSpR0 : Statement (.moveSpR0) := ⟨rfl, rfl⟩
theorem jmpR0 : Statement (.jmpR0) := ⟨rfl, rfl⟩
theorem jmpAbs (addr : Word) : Statement (.jmpAbs addr) := ⟨rfl, rfl⟩
theorem andPs (imm : Byte) : Statement (.andPs imm) := ⟨rfl, rfl⟩
theorem orPs (imm : Byte) : Statement (.orPs imm) := ⟨rfl, rfl⟩
theorem addSp (imm : Byte) : Statement (.addSp imm) := ⟨rfl, rfl⟩
theorem sqrt : Statement (.sqrt) := ⟨rfl, rfl⟩
theorem mulu : Statement (.mulu) := ⟨rfl, rfl⟩
theorem muls : Statement (.muls) := ⟨rfl, rfl⟩
theorem divu : Statement (.divu) := ⟨rfl, rfl⟩
theorem divs : Statement (.divs) := ⟨rfl, rfl⟩
theorem addx : Statement (.addx) := ⟨rfl, rfl⟩
theorem subx : Statement (.subx) := ⟨rfl, rfl⟩
theorem negx : Statement (.negx) := ⟨rfl, rfl⟩
theorem nop : Statement (.nop) := ⟨rfl, rfl⟩

end Sys2Proof.Laws.EncodedLength
end

