-- ==== Sys2Proof/Tests/Slice0.lean ====
section
/-! SUPPORT. Tests: ill-formed terms, words written out from the spec's encodings, one step of each instruction against the
worked examples of the spec, and for each statement with hypotheses a state and operands that meet them. -/

namespace Sys2Proof.Tests

open Sys2Proof.Machine

/-! Terms that no encoding has (R84, R94). -/

theorem test_wf_move_equal : (Instr.move .r1 .r1).wf = false := by decide
theorem test_wf_and_equal : (Instr.and .r0 .r0).wf = false := by decide
theorem test_wf_xor_equal : (Instr.xor .r2 .r2).wf = false := by decide
theorem test_wf_or_equal : (Instr.or .r3 .r3).wf = false := by decide
theorem test_wf_sub_equal : (Instr.sub .r0 .r0).wf = false := by decide
theorem test_wf_cmp_equal : (Instr.cmp .r1 .r1).wf = false := by decide
theorem test_wf_bit_reserved_zero : (Instr.bitRegReserved .r0 0#2 0#3 .r0).wf = false := by decide
theorem test_decode_truncated : decode [0xB0#8, 0x00#8] = .error .truncated := by decide

/-! Words written out from R81 to R94, every constructor once. -/

/-- groups 0x0 to 0x3: `gggg bb aa` (R84) -/
theorem test_decode_move_logic :
    decode [0b00000110#8] = .ok (.move .r2 .r1, []) ∧
    decode [0b00001111#8] = .ok (.sxt .r3, []) ∧
    decode [0b00011011#8] = .ok (.and .r3 .r2, []) ∧
    decode [0b00010101#8] = .ok (.test .r1, []) ∧
    decode [0b00101101#8] = .ok (.xor .r1 .r3, []) ∧
    decode [0b00101010#8] = .ok (.clr .r2, []) ∧
    decode [0b00110111#8] = .ok (.or .r3 .r1, []) ∧
    decode [0b00110000#8] = .ok (.inv .r0, []) := by
  and_intros <;> decide

/-- groups 0x4 to 0x7 and 0xFC to 0xFE (R84, R85, R91) -/
theorem test_decode_arithmetic :
    decode [0b01001101#8] = .ok (.add .r1 .r3, []) ∧
    decode [0b01001010#8] = .ok (.add .r2 .r2, []) ∧
    decode [0b01010011#8] = .ok (.addq .r3 .plus2, []) ∧
    decode [0b01010100#8] = .ok (.addq .r0 .plus1, []) ∧
    decode [0b01011001#8] = .ok (.addq .r1 .minus2, []) ∧
    decode [0b01011110#8] = .ok (.addq .r2 .minus1, []) ∧
    decode [0b01100110#8] = .ok (.sub .r2 .r1, []) ∧
    decode [0b01100101#8] = .ok (.neg .r1, []) ∧
    decode [0b01111101#8] = .ok (.cmp .r1 .r3, []) ∧
    decode [0b01111010#8] = .ok (.abs .r2, []) ∧
    decode [0b11111100#8] = .ok (.addx, []) ∧
    decode [0b11111101#8] = .ok (.subx, []) ∧
    decode [0b11111110#8] = .ok (.negx, []) := by
  and_intros <;> decide

/-- groups 0x8 and 0x9: `100p d s i c` (R86) -/
theorem test_decode_indirect :
    decode [0b10000010#8] = .ok (.ldwInd .r0 .r3, []) ∧
    decode [0b10000101#8] = .ok (.ldbInd .r1 .r2, []) ∧
    decode [0b10001011#8] = .ok (.stwInd .r1 .r3, []) ∧
    decode [0b10001100#8] = .ok (.stbInd .r0 .r2, []) ∧
    decode [0b10010000#8] = .ok (.ldwInc .r0 .r2, []) ∧
    decode [0b10010111#8] = .ok (.ldbInc .r1 .r3, []) ∧
    decode [0b10011001#8] = .ok (.stwInc .r1 .r2, []) ∧
    decode [0b10011110#8] = .ok (.stbInc .r0 .r3, []) := by
  and_intros <;> decide

/-- groups 0xA and 0xB: `101m d s aa` and the operand, low byte first (R87) -/
theorem test_decode_stack_relative_absolute :
    decode [0b10100011#8, 0b00000011#8] = .ok (.ldwSp .r3 0x03#8, []) ∧
    decode [0b10100110#8, 0b11111111#8] = .ok (.ldbSp .r2 0xFF#8, []) ∧
    decode [0b10101001#8, 0b00000101#8] = .ok (.stwSp .r1 0x05#8, []) ∧
    decode [0b10101100#8, 0b10000000#8] = .ok (.stbSp .r0 0x80#8, []) ∧
    decode [0b10110010#8, 0b01100111#8, 0b00010010#8] = .ok (.ldwAbs .r2 0x1267#16, []) ∧
    decode [0b10110101#8, 0b01100111#8, 0b00000000#8] = .ok (.ldbAbs .r1 0x0067#16, []) ∧
    decode [0b10111011#8, 0b01100011#8, 0b11110000#8] = .ok (.stwAbs .r3 0xF063#16, []) ∧
    decode [0b10111100#8, 0b00000000#8, 0b10000000#8] = .ok (.stbAbs .r0 0x8000#16, []) := by
  and_intros <;> decide

/-- group 0xC (R88), 0xD0 to 0xD7 (R89) and 0xF0, 0xF1, 0xF6 (R91) -/
theorem test_decode_stack_and_immediate :
    decode [0b11000001#8] = .ok (.popReg .r1, []) ∧
    decode [0b11000100#8] = .ok (.popPs, []) ∧
    decode [0b11001010#8] = .ok (.pushReg .r2, []) ∧
    decode [0b11001100#8] = .ok (.pushPs, []) ∧
    decode [0b11010011#8, 0b11001101#8, 0b10101011#8] = .ok (.ldwImm .r3 0xABCD#16, []) ∧
    decode [0b11010101#8, 0b01101010#8] = .ok (.ldbImm .r1 0x6A#8, []) ∧
    decode [0b11110000#8] = .ok (.moveR0Sp, []) ∧
    decode [0b11110001#8] = .ok (.moveSpR0, []) ∧
    decode [0b11110110#8, 0b11101110#8] = .ok (.addSp 0xEE#8, []) := by
  and_intros <;> decide

/-- 0xD8 to 0xDB: `ff 0 nnnnn` or `ff 1 l w 0 pp` (R89, R94, R170) -/
theorem test_decode_shift :
    decode [0b11011001#8, 0b00011101#8] = .ok (.lslImm .r1 29#5, []) ∧
    decode [0b11011010#8, 0b00100011#8] = .ok (.lslReg .r2 .r3, []) ∧
    decode [0b11011011#8, 0b00110001#8] = .ok (.lsrReg .r3 .r1, []) ∧
    decode [0b11011001#8, 0b00101010#8] = .ok (.lslWt .r1 .r2, []) ∧
    decode [0b11011000#8, 0b00111010#8] = .ok (.lsrWt .r0 .r2, []) ∧
    decode [0b11011001#8, 0b01011101#8] = .ok (.aslImm .r1 29#5, []) ∧
    decode [0b11011010#8, 0b01100011#8] = .ok (.aslReg .r2 .r3, []) ∧
    decode [0b11011011#8, 0b01110001#8] = .ok (.asrReg .r3 .r1, []) ∧
    decode [0b11011001#8, 0b01101010#8] = .ok (.aslWt .r1 .r2, []) ∧
    decode [0b11011000#8, 0b01111010#8] = .ok (.asrWt .r0 .r2, []) ∧
    decode [0b11011001#8, 0b10011101#8] = .ok (.rolImm .r1 29#5, []) ∧
    decode [0b11011010#8, 0b10100011#8] = .ok (.rolReg .r2 .r3, []) ∧
    decode [0b11011011#8, 0b10110001#8] = .ok (.rorReg .r3 .r1, []) ∧
    decode [0b11011001#8, 0b10101010#8] = .ok (.rolWt .r1 .r2, []) ∧
    decode [0b11011000#8, 0b10111010#8] = .ok (.rorWt .r0 .r2, []) ∧
    decode [0b11011001#8, 0b11011101#8] = .ok (.roxlImm .r1 29#5, []) ∧
    decode [0b11011010#8, 0b11100011#8] = .ok (.roxlReg .r2 .r3, []) ∧
    decode [0b11011011#8, 0b11110001#8] = .ok (.roxrReg .r3 .r1, []) ∧
    decode [0b11011001#8, 0b11101010#8] = .ok (.roxlWt .r1 .r2, []) ∧
    decode [0b11011000#8, 0b11111010#8] = .ok (.roxrWt .r0 .r2, []) ∧
    decode [0b11011001#8, 0b10101111#8] = .ok (.shReserved .r1 2#2 0#1 1#1 .r3, []) := by
  and_intros <;> decide

/-- 0xDC to 0xDF: `ff 0 0 bbbb` or `ff 1 000 pp` (R89, R94, R187) -/
theorem test_decode_bit :
    decode [0b11011110#8, 0b00001001#8] = .ok (.btstImm .r2 9#4, []) ∧
    decode [0b11011101#8, 0b00100010#8] = .ok (.btstReg .r1 .r2, []) ∧
    decode [0b11011110#8, 0b01001001#8] = .ok (.bchgImm .r2 9#4, []) ∧
    decode [0b11011101#8, 0b01100010#8] = .ok (.bchgReg .r1 .r2, []) ∧
    decode [0b11011110#8, 0b10001001#8] = .ok (.bclrImm .r2 9#4, []) ∧
    decode [0b11011101#8, 0b10100010#8] = .ok (.bclrReg .r1 .r2, []) ∧
    decode [0b11011110#8, 0b11001001#8] = .ok (.bsetImm .r2 9#4, []) ∧
    decode [0b11011101#8, 0b11100010#8] = .ok (.bsetReg .r1 .r2, []) ∧
    decode [0b11011100#8, 0b01010110#8] = .ok (.bitImmReserved .r0 1#2 6#4, []) ∧
    decode [0b11011111#8, 0b11110001#8] = .ok (.bitRegReserved .r3 3#2 4#3 .r1, []) ∧
    decode [0b11011111#8, 0b11100101#8] = .ok (.bitRegReserved .r3 3#2 1#3 .r1, []) := by
  and_intros <;> decide

/-- group 0xE: `1110 cccc` and the displacement (R90, R201) -/
theorem test_decode_branch :
    decode [0b11100000#8, 0b11111101#8] = .ok (.buc 0xFD#8, []) ∧
    decode [0b11100001#8, 0b11111101#8] = .ok (.bus 0xFD#8, []) ∧
    decode [0b11100010#8, 0b11111101#8] = .ok (.bhi 0xFD#8, []) ∧
    decode [0b11100011#8, 0b11111101#8] = .ok (.bls 0xFD#8, []) ∧
    decode [0b11100100#8, 0b11111101#8] = .ok (.bcc 0xFD#8, []) ∧
    decode [0b11100101#8, 0b11111101#8] = .ok (.bcs 0xFD#8, []) ∧
    decode [0b11100110#8, 0b11111101#8] = .ok (.bne 0xFD#8, []) ∧
    decode [0b11100111#8, 0b11111101#8] = .ok (.beq 0xFD#8, []) ∧
    decode [0b11101000#8, 0b11111101#8] = .ok (.bvc 0xFD#8, []) ∧
    decode [0b11101001#8, 0b11111101#8] = .ok (.bvs 0xFD#8, []) ∧
    decode [0b11101010#8, 0b11111101#8] = .ok (.bpl 0xFD#8, []) ∧
    decode [0b11101011#8, 0b11111101#8] = .ok (.bmi 0xFD#8, []) ∧
    decode [0b11101100#8, 0b11111101#8] = .ok (.bge 0xFD#8, []) ∧
    decode [0b11101101#8, 0b11111101#8] = .ok (.blt 0xFD#8, []) ∧
    decode [0b11101110#8, 0b11111101#8] = .ok (.bgt 0xFD#8, []) ∧
    decode [0b11101111#8, 0b11111101#8] = .ok (.ble 0xFD#8, []) := by
  and_intros <;> decide

/-- the rest of groups 0xC and 0xF (R88, R91) -/
theorem test_decode_control :
    decode [0b11000101#8] = .ok (.nopC5, []) ∧
    decode [0b11000110#8] = .ok (.ret, []) ∧
    decode [0b11000111#8] = .ok (.reti, []) ∧
    decode [0b11001101#8] = .ok (.trap, []) ∧
    decode [0b11001110#8] = .ok (.jsrR0, []) ∧
    decode [0b11001111#8, 0b01011110#8, 0b00000001#8] = .ok (.jsrAbs 0x015E#16, []) ∧
    decode [0b11110010#8] = .ok (.jmpR0, []) ∧
    decode [0b11110011#8, 0b00011000#8, 0b00000001#8] = .ok (.jmpAbs 0x0118#16, []) ∧
    decode [0b11111111#8] = .ok (.nop, []) := by
  and_intros <;> decide

/-- 0xF4, 0xF5 and 0xF7 to 0xFB (R91) -/
theorem test_decode_muldiv_ps :
    decode [0b11110100#8, 0b11011110#8] = .ok (.andPs 0xDE#8, []) ∧
    decode [0b11110101#8, 0b00000100#8] = .ok (.orPs 0x04#8, []) ∧
    decode [0b11110111#8] = .ok (.sqrt, []) ∧
    decode [0b11111000#8] = .ok (.mulu, []) ∧
    decode [0b11111001#8] = .ok (.muls, []) ∧
    decode [0b11111010#8] = .ok (.divu, []) ∧
    decode [0b11111011#8] = .ok (.divs, []) := by
  and_intros <;> decide

/-- The table's numbering: the 16 bits are `b0*256 + b1`, and bytes not given are 0 (R100, log 27). -/
theorem test_table_word :
    decodeTableWord 8 0x4D = some (.add .r1 .r3) ∧ decodeTableWord 16 0xF300 = some (.jmpAbs 0x0000#16) ∧
    decodeTableWord 16 0xE502 = some (.bcs 0x02#8) ∧ decodeTableWord 16 0xBB63 = some (.stwAbs .r3 0x0063#16) := by decide

/-! One step of each instruction. The numbers are the spec's worked examples, at the rules named. -/

/-- What a step shows of its next state, where it has one. -/
def shown {α : Type} (r : Result) (f : State → α) : Option α :=
  match r with
  | .next t => some (f t)
  | .fault _ => none
  | .refused _ => none

/-- A small state: the registers, SP, PS, the pc, and the bytes of memory that are not 0, lowest address first. -/
def small (regs : Word × Word × Word × Word) (sp : Word) (ps : Byte) (pc : Word) (mem : Memory) : State :=
  { State.reset with r0 := regs.1, r1 := regs.2.1, r2 := regs.2.2.1, r3 := regs.2.2.2, sp := sp, ps := ps, pc := pc, mem := mem }

/-- A byte of memory, as a number. -/
def byteOf (t : State) (a : Nat) : Nat := (Memory.read t.mem a).toNat

/-- R111 -/
theorem test_move :
    shown (step (small (0xF059#16, 0x18ED#16, 0x0000#16, 0x0000#16) 0x0000#16 0xF2#8 0x0000#16 [(0x0, 0x01#8)]))
      (fun t => (t.r1, t.ps)) = some (0xF059#16, 0xD2#8) := by
  decide
/-- R112 -/
theorem test_sxt :
    shown (step (small (0x0000#16, 0x00A2#16, 0x0000#16, 0x0000#16) 0x0000#16 0xC0#8 0x0000#16 [(0x0, 0x05#8)]))
      (fun t => (t.r1, t.ps)) = some (0xFFA2#16, 0xC2#8) := by
  decide
/-- R113 -/
theorem test_and :
    shown (step (small (0x0000#16, 0x0000#16, 0x4826#16, 0x7E04#16) 0x0000#16 0xC0#8 0x0000#16 [(0x0, 0x1B#8)]))
      (fun t => (t.r3, t.ps)) = some (0x4804#16, 0xC0#8) := by
  decide
/-- R114 -/
theorem test_test :
    shown (step (small (0x0000#16, 0x0000#16, 0x0000#16, 0x0000#16) 0x0000#16 0x43#8 0x0000#16 [(0x0, 0x10#8)]))
      (fun t => t.ps) = some 0x45#8 := by
  decide
/-- R115 -/
theorem test_xor :
    shown (step (small (0x0000#16, 0x0001#16, 0x0000#16, 0x7B75#16) 0x0000#16 0x43#8 0x0000#16 [(0x0, 0x2D#8)]))
      (fun t => (t.r1, t.ps)) = some (0x7B74#16, 0x41#8) := by
  decide
/-- R115 -/
theorem test_clr :
    shown (step (small (0x0000#16, 0x0000#16, 0xFFFF#16, 0x7B75#16) 0x0000#16 0x41#8 0x0000#16 [(0x0, 0x2F#8)]))
      (fun t => (t.r3, t.ps)) = some (0x0000#16, 0x45#8) := by
  decide
/-- R116 -/
theorem test_or :
    shown (step (small (0x0000#16, 0x848B#16, 0x0000#16, 0x2223#16) 0x0000#16 0x43#8 0x0000#16 [(0x0, 0x37#8)]))
      (fun t => (t.r3, t.ps)) = some (0xA6AB#16, 0x43#8) := by
  decide
/-- R117 -/
theorem test_inv :
    shown (step (small (0x0000#16, 0x7B74#16, 0x0000#16, 0x0000#16) 0x0000#16 0x41#8 0x0000#16 [(0x0, 0x35#8)]))
      (fun t => (t.r1, t.ps)) = some (0x848B#16, 0x43#8) := by
  decide
/-- R121 -/
theorem test_add :
    shown (step (small (0x0000#16, 0x848B#16, 0x0000#16, 0xA6AB#16) 0x0000#16 0x43#8 0x0000#16 [(0x0, 0x4D#8)]))
      (fun t => (t.r1, t.ps)) = some (0x2B36#16, 0x79#8) := by
  decide
/-- R122 -/
theorem test_addq :
    shown (step (small (0x0000#16, 0x2B36#16, 0x0000#16, 0x0000#16) 0x0000#16 0x79#8 0x0000#16 [(0x0, 0x59#8)]))
      (fun t => (t.r1, t.ps)) = some (0x2B34#16, 0x71#8) := by
  decide
/-- R122: 0 + 0xFFFF has no carry -/
theorem test_addq_dec_zero :
    shown (step (small (0x0000#16, 0x0000#16, 0x0000#16, 0x0000#16) 0x0000#16 0x00#8 0x0000#16 [(0x0, 0x5C#8)]))
      (fun t => (t.r0, t.ps)) = some (0xFFFF#16, 0x02#8) := by
  decide
/-- R123 -/
theorem test_sub :
    shown (step (small (0x0000#16, 0xD4CC#16, 0x0001#16, 0x0000#16) 0x0000#16 0x7B#8 0x0000#16 [(0x0, 0x66#8)]))
      (fun t => (t.r2, t.ps)) = some (0x2B35#16, 0x71#8) := by
  decide
/-- R124 -/
theorem test_neg :
    shown (step (small (0x0000#16, 0x2B34#16, 0x0000#16, 0x0000#16) 0x0000#16 0x53#8 0x0000#16 [(0x0, 0x65#8)]))
      (fun t => (t.r1, t.ps)) = some (0xD4CC#16, 0x73#8) := by
  decide
/-- R124 -/
theorem test_neg_least :
    shown (step (small (0x8000#16, 0x0000#16, 0x0000#16, 0x0000#16) 0x0000#16 0x71#8 0x0000#16 [(0x0, 0x60#8)]))
      (fun t => (t.r0, t.ps)) = some (0x8000#16, 0x7B#8) := by
  decide
/-- R125: X stays 0 -/
theorem test_cmp :
    shown (step (small (0x0000#16, 0x2B34#16, 0x0000#16, 0xA6AB#16) 0x0000#16 0x41#8 0x0000#16 [(0x0, 0x7D#8)]))
      (fun t => (t.r1, t.ps)) = some (0x2B34#16, 0x6B#8) := by
  decide
/-- R128 -/
theorem test_abs_least :
    shown (step (small (0x8000#16, 0x0000#16, 0x0000#16, 0x0000#16) 0x0000#16 0x71#8 0x0000#16 [(0x0, 0x70#8)]))
      (fun t => (t.r0, t.ps)) = some (0x8000#16, 0x7B#8) := by
  decide
/-- R128 -/
theorem test_abs_positive :
    shown (step (small (0x0000#16, 0x0000#16, 0x2B35#16, 0x0000#16) 0x0000#16 0x71#8 0x0000#16 [(0x0, 0x7A#8)]))
      (fun t => (t.r2, t.ps)) = some (0x2B35#16, 0x41#8) := by
  decide
/-- R130 -/
theorem test_addx :
    shown (step (small (0x151A#16, 0x002B#16, 0x0000#16, 0x0000#16) 0x0000#16 0x10#8 0x0000#16 [(0x0, 0xFC#8)]))
      (fun t => (t.r0, t.ps)) = some (0x1546#16, 0x00#8) := by
  decide
/-- R130: 0xFFFF + 0xFFFF + 1 -/
theorem test_addx_carry :
    shown (step (small (0xFFFF#16, 0xFFFF#16, 0x0000#16, 0x0000#16) 0x0000#16 0x10#8 0x0000#16 [(0x0, 0xFC#8)]))
      (fun t => (t.r0, t.ps)) = some (0xFFFF#16, 0x32#8) := by
  decide
/-- R126 -/
theorem test_subx :
    shown (step (small (0x151A#16, 0x002B#16, 0x0000#16, 0x0000#16) 0x0000#16 0x10#8 0x0000#16 [(0x0, 0xFD#8)]))
      (fun t => (t.r0, t.ps)) = some (0x14EE#16, 0x00#8) := by
  decide
/-- R126: 0x10000 subtracted, Z cleared -/
theorem test_subx_borrow :
    shown (step (small (0x1234#16, 0xFFFF#16, 0x0000#16, 0x0000#16) 0x0000#16 0x14#8 0x0000#16 [(0x0, 0xFD#8)]))
      (fun t => (t.r0, t.ps)) = some (0x1234#16, 0x30#8) := by
  decide
/-- R127 -/
theorem test_negx :
    shown (step (small (0x151A#16, 0x0000#16, 0x0000#16, 0x0000#16) 0x0000#16 0x00#8 0x0000#16 [(0x0, 0xFE#8)]))
      (fun t => (t.r0, t.ps)) = some (0xEAE6#16, 0x32#8) := by
  decide
/-- R127: Z unchanged -/
theorem test_negx_sticky :
    shown (step (small (0x0000#16, 0x0000#16, 0x0000#16, 0x0000#16) 0x0000#16 0x04#8 0x0000#16 [(0x0, 0xFE#8)]))
      (fun t => (t.r0, t.ps)) = some (0x0000#16, 0x04#8) := by
  decide
/-- R141 -/
theorem test_ldwInd :
    shown (step (small (0x0000#16, 0x0000#16, 0x0000#16, 0x0066#16) 0x0000#16 0x41#8 0x0000#16 [(0x0, 0x82#8), (0x66, 0x34#8), (0x67, 0x2B#8)]))
      (fun t => (t.r0, t.ps)) = some (0x2B34#16, 0x41#8) := by
  decide
/-- R142 -/
theorem test_ldbInd :
    shown (step (small (0x8000#16, 0x0000#16, 0x0000#16, 0x0066#16) 0x0000#16 0x41#8 0x0000#16 [(0x0, 0x86#8), (0x66, 0x34#8), (0x67, 0x2B#8)]))
      (fun t => (t.r0, t.ps)) = some (0x0034#16, 0x41#8) := by
  decide
/-- R143 -/
theorem test_stwInd :
    shown (step (small (0x0000#16, 0x2B34#16, 0x0000#16, 0x0066#16) 0x0000#16 0x41#8 0x0000#16 [(0x0, 0x8B#8)]))
      (fun t => (byteOf t 0x66, byteOf t 0x67)) = some (0x34, 0x2B) := by
  decide
/-- R144 -/
theorem test_stbInd :
    shown (step (small (0x0000#16, 0x2B34#16, 0x0064#16, 0x0000#16) 0x0000#16 0x41#8 0x0000#16 [(0x0, 0x8D#8), (0x65, 0xFF#8)]))
      (fun t => (byteOf t 0x64, byteOf t 0x65)) = some (0x34, 0xFF) := by
  decide
/-- R145 -/
theorem test_ldwInc :
    shown (step (small (0x0000#16, 0x0000#16, 0x006A#16, 0x0000#16) 0x0000#16 0x41#8 0x0000#16 [(0x0, 0x90#8), (0x6A, 0x55#8), (0x6B, 0xDE#8)]))
      (fun t => (t.r0, t.r2, t.ps)) = some (0xDE55#16, 0x006C#16, 0x43#8) := by
  decide
/-- R146 -/
theorem test_ldbInc :
    shown (step (small (0x0000#16, 0x0000#16, 0x0069#16, 0x0000#16) 0x0000#16 0x43#8 0x0000#16 [(0x0, 0x94#8), (0x69, 0xFF#8)]))
      (fun t => (t.r0, t.r2, t.ps)) = some (0x00FF#16, 0x006A#16, 0x41#8) := by
  decide
/-- R147 -/
theorem test_stwInc :
    shown (step (small (0x0000#16, 0xDE55#16, 0x0000#16, 0x006A#16) 0x0000#16 0x41#8 0x0000#16 [(0x0, 0x9B#8)]))
      (fun t => (t.r3, byteOf t 0x6A, byteOf t 0x6B)) = some (0x006C#16, 0x55, 0xDE) := by
  decide
/-- R148 -/
theorem test_stbInc :
    shown (step (small (0x0000#16, 0xDE55#16, 0x0068#16, 0x0000#16) 0x0000#16 0x43#8 0x0000#16 [(0x0, 0x9D#8)]))
      (fun t => (t.r2, byteOf t 0x68, t.ps)) = some (0x0069#16, 0x55, 0x43#8) := by
  decide
/-- R149 -/
theorem test_ldwSp :
    shown (step (small (0x0000#16, 0x0000#16, 0x0000#16, 0x0000#16) 0x0068#16 0x43#8 0x0000#16 [(0x0, 0xA3#8), (0x1, 0x03#8), (0x6B, 0xDE#8), (0x6C, 0x55#8)]))
      (fun t => (t.r3, t.ps)) = some (0x55DE#16, 0x41#8) := by
  decide
/-- R150 -/
theorem test_ldbSp :
    shown (step (small (0x0000#16, 0x0000#16, 0x0000#16, 0x0000#16) 0x0068#16 0x43#8 0x0000#16 [(0x0, 0xA6#8), (0x1, 0x03#8), (0x6B, 0xDE#8), (0x6C, 0x55#8)]))
      (fun t => (t.r2, t.ps)) = some (0x00DE#16, 0x41#8) := by
  decide
/-- R151 -/
theorem test_stwSp :
    shown (step (small (0x0000#16, 0xDE55#16, 0x0000#16, 0x0000#16) 0x0068#16 0x00#8 0x0000#16 [(0x0, 0xA9#8), (0x1, 0x05#8)]))
      (fun t => (byteOf t 0x6D, byteOf t 0x6E)) = some (0x55, 0xDE) := by
  decide
/-- R152 -/
theorem test_stbSp :
    shown (step (small (0x0000#16, 0xDE55#16, 0x0000#16, 0x0000#16) 0x0068#16 0x41#8 0x0000#16 [(0x0, 0xAD#8), (0x1, 0x04#8)]))
      (fun t => (byteOf t 0x6C, t.ps)) = some (0x55, 0x43#8) := by
  decide
/-- R153 -/
theorem test_ldwAbs :
    shown (step (small (0x0000#16, 0x0000#16, 0x0000#16, 0x0000#16) 0x0000#16 0x41#8 0x0000#16 [(0x0, 0xB2#8), (0x1, 0x67#8), (0x67, 0x2B#8), (0x68, 0x55#8)]))
      (fun t => (t.r2, t.ps)) = some (0x552B#16, 0x41#8) := by
  decide
/-- R154 -/
theorem test_ldbAbs :
    shown (step (small (0x0000#16, 0x0000#16, 0x0000#16, 0x0000#16) 0x0000#16 0x41#8 0x0000#16 [(0x0, 0xB5#8), (0x1, 0x67#8), (0x67, 0x2B#8), (0x68, 0x55#8)]))
      (fun t => (t.r1, t.ps)) = some (0x002B#16, 0x41#8) := by
  decide
/-- R155 -/
theorem test_stwAbs :
    shown (step (small (0x0000#16, 0x0000#16, 0x0000#16, 0x5678#16) 0x0000#16 0x00#8 0x0000#16 [(0x0, 0xBB#8), (0x1, 0x63#8)]))
      (fun t => (byteOf t 0x63, byteOf t 0x64)) = some (0x78, 0x56) := by
  decide
/-- R53: the high byte of a word at 0xFFFF is at 0x0000 -/
theorem test_stwAbs_wraps :
    shown (step (small (0x0000#16, 0x0000#16, 0x0000#16, 0x5678#16) 0x0000#16 0x00#8 0x0100#16 [(0x100, 0xBB#8), (0x101, 0xFF#8), (0x102, 0xFF#8)]))
      (fun t => (byteOf t 0xFFFF, byteOf t 0x0)) = some (0x78, 0x56) := by
  decide
/-- R156 -/
theorem test_stbAbs :
    shown (step (small (0x0000#16, 0x0000#16, 0x0000#16, 0x5678#16) 0x0000#16 0x00#8 0x0000#16 [(0x0, 0xBF#8), (0x1, 0x61#8)]))
      (fun t => (byteOf t 0x61, byteOf t 0x62)) = some (0x78, 0x00) := by
  decide
/-- R157 -/
theorem test_ldwImm :
    shown (step (small (0x0000#16, 0x0000#16, 0x0000#16, 0x0000#16) 0x0000#16 0x41#8 0x0000#16 [(0x0, 0xD0#8), (0x1, 0xCD#8), (0x2, 0xAB#8)]))
      (fun t => (t.r0, t.ps)) = some (0xABCD#16, 0x43#8) := by
  decide
/-- R158 -/
theorem test_ldbImm :
    shown (step (small (0x0000#16, 0x0000#16, 0x0000#16, 0xFFFF#16) 0x0000#16 0x41#8 0x0000#16 [(0x0, 0xD7#8), (0x1, 0x6A#8)]))
      (fun t => (t.r3, t.ps)) = some (0x006A#16, 0x41#8) := by
  decide
/-- R161 -/
theorem test_pushReg :
    shown (step (small (0x0000#16, 0x0000#16, 0x552B#16, 0x0000#16) 0x0067#16 0x41#8 0x0000#16 [(0x0, 0xCA#8)]))
      (fun t => (t.sp, byteOf t 0x65, byteOf t 0x66)) = some (0x0065#16, 0x2B, 0x55) := by
  decide
/-- R162 -/
theorem test_popReg :
    shown (step (small (0x0000#16, 0x0000#16, 0x0000#16, 0x0000#16) 0x0066#16 0x2B#8 0x0000#16 [(0x0, 0xC0#8), (0x66, 0x55#8), (0x67, 0x41#8)]))
      (fun t => (t.r0, t.sp, t.ps)) = some (0x4155#16, 0x0068#16, 0x01#8) := by
  decide
/-- R163 -/
theorem test_pushPs :
    shown (step (small (0x0000#16, 0x0000#16, 0x0000#16, 0x0000#16) 0x0068#16 0x41#8 0x0000#16 [(0x0, 0xCC#8)]))
      (fun t => (t.sp, byteOf t 0x67)) = some (0x0067#16, 0x41) := by
  decide
/-- R164 -/
theorem test_popPs :
    shown (step (small (0x0000#16, 0x0000#16, 0x0000#16, 0x0000#16) 0x0065#16 0x41#8 0x0000#16 [(0x0, 0xC4#8), (0x65, 0x2B#8)]))
      (fun t => (t.sp, t.ps)) = some (0x0066#16, 0x2B#8) := by
  decide
/-- R165 -/
theorem test_moveR0Sp :
    shown (step (small (0x015E#16, 0x0000#16, 0x0000#16, 0x0000#16) 0x0068#16 0x06#8 0x0000#16 [(0x0, 0xF0#8)]))
      (fun t => (t.r0, t.ps)) = some (0x0068#16, 0x06#8) := by
  decide
/-- R166 -/
theorem test_moveSpR0 :
    shown (step (small (0x8321#16, 0x0000#16, 0x0000#16, 0x0000#16) 0x0068#16 0x02#8 0x0000#16 [(0x0, 0xF1#8)]))
      (fun t => (t.sp, t.ps)) = some (0x8321#16, 0x02#8) := by
  decide
/-- R167 -/
theorem test_addSp :
    shown (step (small (0x0000#16, 0x0000#16, 0x0000#16, 0x0000#16) 0x8333#16 0x23#8 0x0000#16 [(0x0, 0xF6#8), (0x1, 0xEE#8)]))
      (fun t => (t.sp, t.ps)) = some (0x8321#16, 0x23#8) := by
  decide
/-- R175 -/
theorem test_lslImm :
    shown (step (small (0x1234#16, 0x9ABC#16, 0x9AFD#16, 0xFFFE#16) 0x0000#16 0x02#8 0x0000#16 [(0x0, 0xD8#8), (0x1, 0x02#8)]))
      (fun t => (t.r0, t.ps)) = some (0x48D0#16, 0x00#8) := by
  decide
/-- R174: bit 15 changed -/
theorem test_lslImm_overflow :
    shown (step (small (0x4000#16, 0x0000#16, 0x0000#16, 0x0000#16) 0x0000#16 0x00#8 0x0000#16 [(0x0, 0xD8#8), (0x1, 0x01#8)]))
      (fun t => (t.r0, t.ps)) = some (0x8000#16, 0x0A#8) := by
  decide
/-- R175 -/
theorem test_lslReg :
    shown (step (small (0x1234#16, 0x9ABC#16, 0x9AFD#16, 0xFFFE#16) 0x0000#16 0x00#8 0x0000#16 [(0x0, 0xD9#8), (0x1, 0x22#8)]))
      (fun t => (t.r1, t.ps)) = some (0x1357#16, 0x30#8) := by
  decide
/-- R176 -/
theorem test_lsrReg :
    shown (step (small (0x1234#16, 0x9ABC#16, 0x9AFD#16, 0xFFFE#16) 0x0000#16 0x00#8 0x0000#16 [(0x0, 0xD8#8), (0x1, 0x33#8)]))
      (fun t => (t.r0, t.ps)) = some (0x48D0#16, 0x00#8) := by
  decide
/-- R184: the pc goes on and Rp is kept -/
theorem test_lsrReg_neg16 :
    shown (step (small (0x1234#16, 0x0000#16, 0x0000#16, 0x0010#16) 0x0000#16 0x00#8 0x0000#16 [(0x0, 0xD8#8), (0x1, 0x33#8)]))
      (fun t => (t.pc, t.r3)) = some (0x0002#16, 0x0010#16) := by
  decide
/-- R177 -/
theorem test_aslImm_zero :
    shown (step (small (0x1234#16, 0x9ABC#16, 0x9AFD#16, 0xFFFE#16) 0x0000#16 0x02#8 0x0000#16 [(0x0, 0xD8#8), (0x1, 0x40#8)]))
      (fun t => (t.r0, t.ps)) = some (0x1234#16, 0x00#8) := by
  decide
/-- R177 -/
theorem test_aslReg :
    shown (step (small (0x1234#16, 0x9ABC#16, 0x9AFD#16, 0xFFFE#16) 0x0000#16 0x00#8 0x0000#16 [(0x0, 0xD9#8), (0x1, 0x62#8)]))
      (fun t => (t.r1, t.ps)) = some (0xF357#16, 0x32#8) := by
  decide
/-- R178 -/
theorem test_asrReg :
    shown (step (small (0x1234#16, 0x9ABC#16, 0x9AFD#16, 0xFFFE#16) 0x0000#16 0x00#8 0x0000#16 [(0x0, 0xD8#8), (0x1, 0x73#8)]))
      (fun t => (t.r0, t.ps)) = some (0x48D0#16, 0x00#8) := by
  decide
/-- R179 -/
theorem test_rolImm :
    shown (step (small (0x1234#16, 0x9ABC#16, 0x9AFD#16, 0xFFFE#16) 0x0000#16 0x02#8 0x0000#16 [(0x0, 0xD8#8), (0x1, 0x87#8)]))
      (fun t => (t.r0, t.ps)) = some (0x1A09#16, 0x20#8) := by
  decide
/-- R179 -/
theorem test_rolReg :
    shown (step (small (0x1234#16, 0x9ABC#16, 0x9AFD#16, 0xFFFE#16) 0x0000#16 0x00#8 0x0000#16 [(0x0, 0xD9#8), (0x1, 0xA2#8)]))
      (fun t => (t.r1, t.ps)) = some (0x9357#16, 0x22#8) := by
  decide
/-- R180 -/
theorem test_rorReg :
    shown (step (small (0x4682#16, 0x0000#16, 0x0000#16, 0xFFFE#16) 0x0000#16 0x00#8 0x0000#16 [(0x0, 0xD8#8), (0x1, 0xB3#8)]))
      (fun t => (t.r0, t.ps)) = some (0x1A09#16, 0x20#8) := by
  decide
/-- R181 -/
theorem test_roxlImm :
    shown (step (small (0x1234#16, 0x9ABC#16, 0x9AFD#16, 0xFFFE#16) 0x0000#16 0x02#8 0x0000#16 [(0x0, 0xD8#8), (0x1, 0xC7#8)]))
      (fun t => (t.r0, t.ps)) = some (0x1A04#16, 0x30#8) := by
  decide
/-- R181 -/
theorem test_roxlReg :
    shown (step (small (0x1234#16, 0x9ABC#16, 0x9AFD#16, 0xFFFE#16) 0x0000#16 0x10#8 0x0000#16 [(0x0, 0xD9#8), (0x1, 0xE2#8)]))
      (fun t => (t.r1, t.ps)) = some (0x3357#16, 0x30#8) := by
  decide
/-- R182 -/
theorem test_roxrReg :
    shown (step (small (0x4681#16, 0x0000#16, 0x0000#16, 0xFFFE#16) 0x0000#16 0x00#8 0x0000#16 [(0x0, 0xD8#8), (0x1, 0xF3#8)]))
      (fun t => (t.r0, t.ps)) = some (0x1A04#16, 0x30#8) := by
  decide
/-- R183 -/
theorem test_lslWt :
    shown (step (small (0x0000#16, 0x1357#16, 0x9AFD#16, 0x0000#16) 0x0000#16 0x30#8 0x0000#16 [(0x0, 0xD9#8), (0x1, 0x2A#8)]))
      (fun t => (t.r1, t.ps)) = some (0x0003#16, 0x20#8) := by
  decide
/-- R183 -/
theorem test_aslWt :
    shown (step (small (0x0000#16, 0xF357#16, 0x9AFD#16, 0x0000#16) 0x0000#16 0x30#8 0x0000#16 [(0x0, 0xD9#8), (0x1, 0x6A#8)]))
      (fun t => (t.r1, t.ps)) = some (0x0003#16, 0x20#8) := by
  decide
/-- R183 -/
theorem test_rolWt :
    shown (step (small (0x0000#16, 0x9357#16, 0x9AFD#16, 0x0000#16) 0x0000#16 0x30#8 0x0000#16 [(0x0, 0xD9#8), (0x1, 0xAA#8)]))
      (fun t => (t.r1, t.ps)) = some (0x0003#16, 0x20#8) := by
  decide
/-- R183 -/
theorem test_roxlWt :
    shown (step (small (0x0000#16, 0x3357#16, 0x9AFD#16, 0x0000#16) 0x0000#16 0x30#8 0x0000#16 [(0x0, 0xD9#8), (0x1, 0xEA#8)]))
      (fun t => (t.r1, t.ps)) = some (0x0003#16, 0x20#8) := by
  decide
/-- R183, the count 3 negated -/
theorem test_lsrWt :
    shown (step (small (0x0000#16, 0x1357#16, 0x0003#16, 0x0000#16) 0x0000#16 0x30#8 0x0000#16 [(0x0, 0xD9#8), (0x1, 0x3A#8)]))
      (fun t => (t.r1, t.ps)) = some (0x0003#16, 0x20#8) := by
  decide
/-- R183, the count 3 negated -/
theorem test_asrWt :
    shown (step (small (0x0000#16, 0xF357#16, 0x0003#16, 0x0000#16) 0x0000#16 0x30#8 0x0000#16 [(0x0, 0xD9#8), (0x1, 0x7A#8)]))
      (fun t => (t.r1, t.ps)) = some (0x0003#16, 0x20#8) := by
  decide
/-- R183, the count 3 negated -/
theorem test_rorWt :
    shown (step (small (0x0000#16, 0x9357#16, 0x0003#16, 0x0000#16) 0x0000#16 0x30#8 0x0000#16 [(0x0, 0xD9#8), (0x1, 0xBA#8)]))
      (fun t => (t.r1, t.ps)) = some (0x0003#16, 0x20#8) := by
  decide
/-- R183, the count 3 negated -/
theorem test_roxrWt :
    shown (step (small (0x0000#16, 0x3357#16, 0x0003#16, 0x0000#16) 0x0000#16 0x30#8 0x0000#16 [(0x0, 0xD9#8), (0x1, 0xFA#8)]))
      (fun t => (t.r1, t.ps)) = some (0x0003#16, 0x20#8) := by
  decide
/-- R188 -/
theorem test_btstReg :
    shown (step (small (0x0002#16, 0x0008#16, 0x0006#16, 0x0000#16) 0x0000#16 0x10#8 0x0000#16 [(0x0, 0xDE#8), (0x1, 0x21#8)]))
      (fun t => (t.r2, t.ps)) = some (0x0006#16, 0x14#8) := by
  decide
/-- R188 -/
theorem test_btstImm :
    shown (step (small (0x0002#16, 0x0008#16, 0x0006#16, 0x0000#16) 0x0000#16 0x10#8 0x0000#16 [(0x0, 0xDE#8), (0x1, 0x01#8)]))
      (fun t => (t.r2, t.ps)) = some (0x0006#16, 0x10#8) := by
  decide
/-- R189 -/
theorem test_bchgReg :
    shown (step (small (0x0002#16, 0x0008#16, 0x0002#16, 0x0000#16) 0x0000#16 0x10#8 0x0000#16 [(0x0, 0xDE#8), (0x1, 0x61#8)]))
      (fun t => (t.r2, t.ps)) = some (0x0102#16, 0x14#8) := by
  decide
/-- R189 -/
theorem test_bchgImm :
    shown (step (small (0x0002#16, 0x0008#16, 0x0102#16, 0x0000#16) 0x0000#16 0x10#8 0x0000#16 [(0x0, 0xDE#8), (0x1, 0x41#8)]))
      (fun t => (t.r2, t.ps)) = some (0x0100#16, 0x10#8) := by
  decide
/-- R190 -/
theorem test_bclrReg :
    shown (step (small (0x0002#16, 0x0008#16, 0x0006#16, 0x0000#16) 0x0000#16 0x10#8 0x0000#16 [(0x0, 0xDE#8), (0x1, 0xA0#8)]))
      (fun t => (t.r2, t.ps)) = some (0x0002#16, 0x10#8) := by
  decide
/-- R190 -/
theorem test_bclrImm :
    shown (step (small (0x0002#16, 0x0008#16, 0x0002#16, 0x0000#16) 0x0000#16 0x10#8 0x0000#16 [(0x0, 0xDE#8), (0x1, 0x81#8)]))
      (fun t => (t.r2, t.ps)) = some (0x0000#16, 0x10#8) := by
  decide
/-- R191 -/
theorem test_bsetReg :
    shown (step (small (0x0002#16, 0x0008#16, 0x0006#16, 0x0000#16) 0x0000#16 0x10#8 0x0000#16 [(0x0, 0xDE#8), (0x1, 0xE1#8)]))
      (fun t => (t.r2, t.ps)) = some (0x0106#16, 0x14#8) := by
  decide
/-- R191 -/
theorem test_bsetImm :
    shown (step (small (0x0002#16, 0x0008#16, 0x0106#16, 0x0000#16) 0x0000#16 0x10#8 0x0000#16 [(0x0, 0xDE#8), (0x1, 0xC1#8)]))
      (fun t => (t.r2, t.ps)) = some (0x0106#16, 0x10#8) := by
  decide
/-- R202 -/
theorem test_bcc_not_taken :
    shown (step (small (0x0000#16, 0x0000#16, 0x0000#16, 0x0000#16) 0x0000#16 0x23#8 0x00E2#16 [(0xE2, 0xE4#8), (0xE3, 0x01#8)]))
      (fun t => t.pc) = some 0x00E4#16 := by
  decide
/-- R202 -/
theorem test_bcs_taken_back :
    shown (step (small (0x0000#16, 0x0000#16, 0x0000#16, 0x0000#16) 0x0000#16 0x23#8 0x00E9#16 [(0xE9, 0xE5#8), (0xEA, 0xFD#8)]))
      (fun t => t.pc) = some 0x00E8#16 := by
  decide
/-- The condition table (R201), for two values of PS: which of the sixteen branches go to the target. -/
theorem test_branches :
    let taken (ps : Byte) : List Bool :=
      [Instr.buc 2#8, .bus 2#8, .bhi 2#8, .bls 2#8, .bcc 2#8, .bcs 2#8, .bne 2#8, .beq 2#8, .bvc 2#8, .bvs 2#8, .bpl 2#8,
        .bmi 2#8, .bge 2#8, .blt 2#8, .bgt 2#8, .ble 2#8].map
        (fun i => shown (exec i { State.reset with ps := ps }) (fun t => t.pc) == some 0x0004#16)
    taken 0x22#8 = [true, false, false, true, false, true, true, false, true, false, false, true, false, true, false, true] ∧
      taken 0x8E#8 = [false, true, false, true, true, false, false, true, false, true, false, true, true, false, false,
        true] := by
  decide
/-- R203 -/
theorem test_jmpR0 :
    shown (step (small (0x010C#16, 0x0000#16, 0x0000#16, 0x0000#16) 0x0000#16 0x00#8 0x0108#16 [(0x108, 0xF2#8)]))
      (fun t => t.pc) = some 0x010C#16 := by
  decide
/-- R204 -/
theorem test_jmpAbs :
    shown (step (small (0x0000#16, 0x0000#16, 0x0000#16, 0x0000#16) 0x0000#16 0x00#8 0x010F#16 [(0x10F, 0xF3#8), (0x110, 0x18#8), (0x111, 0x01#8)]))
      (fun t => t.pc) = some 0x0118#16 := by
  decide
/-- R205 -/
theorem test_jsrR0 :
    shown (step (small (0x015E#16, 0x0000#16, 0x0000#16, 0x0000#16) 0x0068#16 0x00#8 0x00DC#16 [(0xDC, 0xCE#8)]))
      (fun t => (t.pc, t.sp, byteOf t 0x66)) = some (0x015E#16, 0x0066#16, 0xDD) := by
  decide
/-- R206 -/
theorem test_jsrAbs :
    shown (step (small (0x0000#16, 0x0000#16, 0x0000#16, 0x0000#16) 0x0068#16 0x00#8 0x00DC#16 [(0xDC, 0xCF#8), (0xDD, 0x5E#8), (0xDE, 0x01#8)]))
      (fun t => (t.pc, t.sp, byteOf t 0x66)) = some (0x015E#16, 0x0066#16, 0xDF) := by
  decide
/-- R207 -/
theorem test_ret :
    shown (step (small (0x0000#16, 0x0000#16, 0x0000#16, 0x0000#16) 0x0066#16 0x00#8 0x015E#16 [(0x66, 0xDF#8), (0x15E, 0xC6#8)]))
      (fun t => (t.pc, t.sp)) = some (0x00DF#16, 0x0068#16) := by
  decide
/-- R208 -/
theorem test_reti :
    shown (step (small (0x0000#16, 0x0000#16, 0x0000#16, 0x0000#16) 0x0065#16 0x00#8 0x000C#16 [(0xC, 0xC7#8), (0x65, 0x01#8), (0x66, 0xE0#8)]))
      (fun t => (t.pc, t.sp, t.ps)) = some (0x00E0#16, 0x0068#16, 0x01#8) := by
  decide
/-- R209 -/
theorem test_trap :
    shown (step (small (0x0000#16, 0x0000#16, 0x0000#16, 0x0000#16) 0x0068#16 0x01#8 0x00DF#16 [(0xDF, 0xCD#8)]))
      (fun t => (t.pc, t.sp, t.ps)) = some (0x000C#16, 0x0065#16, 0x00#8) := by
  decide
/-- R209 -/
theorem test_trap_frame :
    shown (step (small (0x0000#16, 0x0000#16, 0x0000#16, 0x0000#16) 0x0068#16 0x01#8 0x00DF#16 [(0xDF, 0xCD#8)]))
      (fun t => (byteOf t 0x65, byteOf t 0x66, byteOf t 0x67)) = some (0x01, 0xE0, 0x00) := by
  decide
/-- R210 -/
theorem test_nop :
    shown (step (small (0x0000#16, 0x0000#16, 0x0000#16, 0x0000#16) 0x0000#16 0x23#8 0x011D#16 [(0x11D, 0xFF#8)]))
      (fun t => (t.pc, t.ps)) = some (0x011E#16, 0x23#8) := by
  decide
/-- R211 -/
theorem test_nopC5 :
    shown (step (small (0x0000#16, 0x0000#16, 0x0000#16, 0x0000#16) 0x0000#16 0x23#8 0x011D#16 [(0x11D, 0xC5#8)]))
      (fun t => (t.pc, t.ps)) = some (0x011E#16, 0x23#8) := by
  decide
/-- R221 -/
theorem test_mulu :
    shown (step (small (0x0123#16, 0xCAFE#16, 0x0000#16, 0x0000#16) 0x0000#16 0x02#8 0x0000#16 [(0x0, 0xF8#8)]))
      (fun t => (t.r3, t.r2, t.ps)) = some (0x00E6#16, 0xBEBA#16, 0x00#8) := by
  decide
/-- R222 -/
theorem test_muls :
    shown (step (small (0x0123#16, 0xCAFE#16, 0x0000#16, 0x0000#16) 0x0000#16 0x02#8 0x0000#16 [(0x0, 0xF9#8)]))
      (fun t => (t.r3, t.r2, t.ps)) = some (0xFFC3#16, 0xBEBA#16, 0x00#8) := by
  decide
/-- R224 -/
theorem test_divu :
    shown (step (small (0x000D#16, 0xFFFD#16, 0x0000#16, 0x0000#16) 0x0000#16 0x02#8 0x0000#16 [(0x0, 0xFA#8)]))
      (fun t => (t.r2, t.r3, t.ps)) = some (0x0000#16, 0x000D#16, 0x00#8) := by
  decide
/-- R226: no register is written, and three bytes are stacked -/
theorem test_divu_by_zero :
    shown (step (small (0x000D#16, 0x0000#16, 0x0007#16, 0x0008#16) 0x0068#16 0x00#8 0x00DF#16 [(0xDF, 0xFA#8)]))
      (fun t => (t.r2, t.r3, t.sp)) = some (0x0007#16, 0x0008#16, 0x0065#16) := by
  decide
/-- R225, D = 0 -/
theorem test_divs :
    shown (step (small (0x000D#16, 0xFFFD#16, 0x0000#16, 0x0000#16) 0x0000#16 0x00#8 0x0000#16 [(0x0, 0xFB#8)]))
      (fun t => (t.r2, t.r3, t.r1)) = some (0xFFFC#16, 0x0001#16, 0x0003#16) := by
  decide
/-- R225, D = 1 -/
theorem test_divs_euclid :
    shown (step (small (0xFFF3#16, 0x0003#16, 0x0000#16, 0x0000#16) 0x0000#16 0x40#8 0x0000#16 [(0x0, 0xFB#8)]))
      (fun t => (t.r2, t.r3, t.ps)) = some (0xFFFB#16, 0x0002#16, 0x40#8) := by
  decide
/-- R226: no register is written, and three bytes are stacked -/
theorem test_divs_by_zero :
    shown (step (small (0x000D#16, 0x0000#16, 0x0007#16, 0x0008#16) 0x0068#16 0x00#8 0x00DF#16 [(0xDF, 0xFB#8)]))
      (fun t => (t.r2, t.r3, t.sp)) = some (0x0007#16, 0x0008#16, 0x0065#16) := by
  decide
/-- R227 -/
theorem test_sqrt :
    shown (step (small (0x0002#16, 0x1705#16, 0x0009#16, 0x5678#16) 0x0000#16 0x10#8 0x0000#16 [(0x0, 0xF7#8)]))
      (fun t => (t.r0, t.r1, t.r3)) = some (0x004C#16, 0x0075#16, 0x0000#16) := by
  decide
/-- R228 -/
theorem test_andPs :
    shown (step (small (0x0000#16, 0x0000#16, 0x0000#16, 0x0000#16) 0x0000#16 0x27#8 0x0000#16 [(0x0, 0xF4#8), (0x1, 0xDE#8)]))
      (fun t => (t.pc, t.ps)) = some (0x0002#16, 0x06#8) := by
  decide
/-- R229 -/
theorem test_orPs :
    shown (step (small (0x0000#16, 0x0000#16, 0x0000#16, 0x0000#16) 0x0000#16 0x00#8 0x0000#16 [(0x0, 0xF5#8), (0x1, 0x40#8)]))
      (fun t => (t.pc, t.ps)) = some (0x0002#16, 0x40#8) := by
  decide

/-- The reserved second bytes have no step, each by its name (R94). -/
theorem test_reserved :
    step (small (0#16, 0#16, 0#16, 0#16) 0#16 0#8 0#16 [(0, 0xD8#8), (1, 0x24#8)]) = .refused .shReserved ∧
      step (small (0#16, 0#16, 0#16, 0#16) 0#16 0#8 0#16 [(0, 0xDC#8), (1, 0x10#8)]) = .refused .bitImmReserved ∧
      step (small (0#16, 0#16, 0#16, 0#16) 0#16 0#8 0#16 [(0, 0xDC#8), (1, 0x24#8)]) = .refused .bitRegReserved :=
  ⟨rfl, rfl, rfl⟩

/-- A store over the next opcode leaves the old byte waiting (R283): ST.B 0x0003,R3 at 0, where 0xFF stands at 3. -/
theorem test_prefetch :
    shown (step (small (0#16, 0#16, 0#16, 0x00C5#16) 0#16 0#8 0#16 [(0, 0xBF#8), (1, 0x03#8), (3, 0xFF#8)]))
      (fun t => (t.prefetch, byteOf t 3)) = some (some 0xFF#8, 0xC5) := by
  decide

/-- rom ignores a store and a device receives it (R52, R58). -/
theorem test_store_not_ram :
    shown (exec (.stbAbs .r0 0x0100#16) { State.reset with map := [⟨0x100, 1, .rom⟩] }) (fun t => t.mem) = some [] ∧
      shown (exec (.stwAbs .r0 0x0100#16) { State.reset with r0 := 0x1234#16, map := [⟨0x100, 2, .device⟩] })
        (fun t => t.devOut) = some [.word 0x0100#16 0x1234#16] := by
  decide

/-- The host's words: the step runs the instruction placed (logs 27 and 28). -/
theorem test_withFetchWord : shown (step (State.reset.withFetchWord 16 0xF540)) (fun t => t.ps) = some 0x40#8 := by decide

/-! Each statement with hypotheses, met by a concrete state and operands. -/

theorem witness_StepKeepsInvariant : State.reset.Inv ∧ ∃ t, step State.reset = .next t :=
  ⟨⟨by decide, fun _ h => by cases h⟩, _, rfl⟩

/-- The second half of the invariant: a byte that a store replaced at the pc is waiting. -/
theorem witness_StepKeepsInvariant_prefetch :
    let s := { State.reset with mem := [(0, 0xC5#8)], prefetch := some 0xFF#8 }
    s.Inv ∧ ∃ t, step { s with prefetch := none } = .next t :=
  ⟨⟨by decide, fun _ h => by cases h; decide⟩, _, rfl⟩

theorem witness_StepRunsDecodedInstruction_quiet :
    let s := State.reset
    s.boundary = .quiet ∧
      decode [s.opcodeByte, s.readByte .fetch (s.pc + 1#16), s.readByte .fetch (s.pc + 2#16)] =
        .ok (.sxt .r0, [0x00#8, 0x00#8]) ∧ ∃ t, exec (.sxt .r0) s.passBoundary = .next t :=
  ⟨rfl, by decide, _, rfl⟩

theorem witness_StepRunsDecodedInstruction_masked :
    let s := { State.reset with inputs := [.irq], mem := [(0, 0xD8#8), (1, 0x24#8)] }
    (s.boundary = .irq ∧ s.flag .i = false) ∧
      decode [s.opcodeByte, s.readByte .fetch (s.pc + 1#16), s.readByte .fetch (s.pc + 2#16)] =
        .ok (.shReserved .r0 0#2 0#1 0#1 .r0, [0x00#8]) ∧
      exec (.shReserved .r0 0#2 0#1 0#1 .r0) s.passBoundary = .refused .shReserved :=
  ⟨⟨rfl, rfl⟩, by decide, rfl⟩

theorem witness_InterruptAccepted :
    let s := { State.reset with inputs := [.irq, .quiet], ps := 0x01#8 }
    s.inputs = .irq :: [.quiet] ∧ s.flag .i = true := by
  decide

theorem witness_ResetAtBoundary :
    let load : List (Word × Byte) := [(0x0000#16, 0xFF#8), (0xFFFF#16, 0x01#8), (0x0000#16, 0xC5#8)]
    let s := { State.reset with inputs := [.reset ⟨1#16, 2#16, 3#16, 4#16, 5#16, 0xFF#8⟩ load] }
    s.inputs = .reset ⟨1#16, 2#16, 3#16, 4#16, 5#16, 0xFF#8⟩ load :: [] ∧ (∀ v, (0x0001#16, v) ∉ load) ∧
      load = [(0x0000#16, 0xFF#8), (0xFFFF#16, 0x01#8)] ++ (0x0000#16, 0xC5#8) :: [] ∧
      (∀ v : Byte, (0x0000#16, v) ∉ ([] : List (Word × Byte))) := by
  refine ⟨rfl, fun v h => ?_, rfl, fun _ h => by cases h⟩
  simp at h

theorem witness_PrefetchHazard_none : ∃ t, step State.reset = .next t ∧ t.prefetch = none := ⟨_, rfl, rfl⟩

theorem witness_PrefetchHazard_some :
    ∃ t, step { State.reset with r3 := 0x00C5#16, mem := [(0, 0xBF#8), (1, 0x03#8), (3, 0xFF#8)] } = .next t ∧
      t.prefetch = some 0xFF#8 :=
  ⟨_, rfl, rfl⟩

theorem witness_FrameOfEveryInstruction :
    (∃ t, exec (.add .r0 .r1) State.reset = .next t) ∧ writesSp State.reset (.add .r0 .r1) = false :=
  ⟨⟨_, rfl⟩, rfl⟩

theorem witness_DivisionModeAndUserFlagWriters :
    ∃ t, step { State.reset with mem := [(0, 0xF5#8), (1, 0xC0#8)] } = .next t ∧ t.flag .d ≠ State.reset.flag .d ∧
      t.flag .u ≠ State.reset.flag .u :=
  ⟨_, rfl, by decide, by decide⟩

/-- The three patterns at the ends of their ranges, and their neighbours. -/
theorem witness_ReservedSecondBytesRefused :
    exec (decodeBytes 0xD8#8 0x24#8 0#8) State.reset = .refused .shReserved ∧
      exec (decodeBytes 0xDB#8 0xFF#8 0#8) State.reset = .refused .shReserved ∧
      exec (decodeBytes 0xDC#8 0x10#8 0#8) State.reset = .refused .bitImmReserved ∧
      exec (decodeBytes 0xDF#8 0xDF#8 0#8) State.reset = .refused .bitImmReserved ∧
      exec (decodeBytes 0xDC#8 0x24#8 0#8) State.reset = .refused .bitRegReserved ∧
      exec (decodeBytes 0xDF#8 0xF0#8 0#8) State.reset = .refused .bitRegReserved ∧
      (∃ t, exec (decodeBytes 0xD8#8 0x1F#8 0#8) State.reset = .next t) ∧
      (∃ t, exec (decodeBytes 0xDC#8 0x0F#8 0#8) State.reset = .next t) :=
  ⟨rfl, rfl, rfl, rfl, rfl, rfl, ⟨_, rfl⟩, ⟨_, rfl⟩⟩

theorem witness_EndOfRunChangesNothing :
    (let s := { State.reset with mem := [(0, 0xF3#8)] }
    s.boundary = .quiet ∧ s.atEndOfRun = true) ∧
      (let s := { State.reset with mem := [(0, 0xE0#8), (1, 0xFE#8)] }
      s.boundary = .quiet ∧ s.atEndOfRun = true) := by
  decide

theorem witness_CyclesAtMostTwenty :
    State.reset.cycles .nop = some 1 ∧ State.reset.cycles (.lslImm .r0 16#5) = some 20 := by
  decide

theorem witness_DecodeEncode : (Instr.move .r0 .r1).wf = true ∧ (Instr.bitRegReserved .r0 0#2 7#3 .r0).wf = true := by decide

/-- Each row of the length table at its ends (R83). -/
theorem witness_LengthFromFirstByte :
    [0x00#8, 0x9F#8, 0xA0#8, 0xAF#8, 0xB0#8, 0xBF#8, 0xC0#8, 0xCE#8, 0xCF#8, 0xD0#8, 0xD3#8, 0xD4#8, 0xDF#8, 0xE0#8, 0xEF#8,
        0xF0#8, 0xF2#8, 0xF3#8, 0xF4#8, 0xF6#8, 0xF7#8, 0xFF#8].map (fun b0 => (decodeBytes b0 0#8 0#8).len) =
      [1, 1, 2, 2, 3, 3, 1, 1, 3, 3, 3, 2, 2, 2, 2, 1, 1, 3, 2, 2, 1, 1] := by
  decide

/-- A word at the top of the address space (R53). -/
theorem witness_WordsInMemory :
    State.reset.region 0xFFFF#16 = .ram ∧ State.reset.region (0xFFFF#16 + 1#16) = .ram := by
  decide

theorem witness_EqualMemoriesAreEqualData :
    Memory.wf [(0, 0x01#8), (65535, 0xFF#8)] ∧ Memory.wf (Memory.write [(0, 0x01#8)] 65535 0xFF#8) ∧
      ∀ a, a < 65536 → Memory.read [(0, 0x01#8), (65535, 0xFF#8)] a = Memory.read (Memory.write [(0, 0x01#8)] 65535 0xFF#8) a :=
  ⟨by decide, by decide, fun _ _ => rfl⟩

/-- MOVE, AND, XOR, OR, SUB and CMP of two registers; TwoWordArithmetic and ConditionsAfterCompare take the same. -/
theorem witness_different_registers : (Reg.r0 : Reg) ≠ .r1 ∧ (Reg.r3 : Reg) ≠ .r0 := by decide

theorem witness_TwoWordArithmetic :
    (∃ t, exec (.add .r2 .r3) State.reset = .next t ∧ State.reset.flag .x = t.flag .x) ∧
      ∃ t, exec (.sub .r2 .r3) { State.reset with r3 := 1#16 } = .next t ∧
        ({ State.reset with ps := 0x10#8 } : State).flag .x = t.flag .x :=
  ⟨⟨_, rfl, by decide⟩, _, rfl, by decide⟩

theorem witness_PopAfterPush :
    State.reset.region (State.reset.sp - 2#16) = .ram ∧ State.reset.region (State.reset.sp - 1#16) = .ram := by
  decide

/-- What a store leaves at a byte that is ram and at one that is not (`ByteAt`). -/
theorem witness_stores :
    State.reset.region 0x0100#16 = .ram ∧ ({ State.reset with map := [⟨0x100, 1, .rom⟩] } : State).region 0x0100#16 ≠ .ram := by
  decide

/-- Counts of no place, of one and fifteen places left, and of one and sixteen right, from the low five bits alone. -/
theorem witness_shift_counts :
    signed5 0 = 0 ∧ signed5 1 = 1 ∧ signed5 15 = 15 ∧ signed5 16 = -16 ∧ signed5 31 = -1 ∧ signed5 0xFFE0 = 0 ∧
      signed5 0xFFEF ≠ -16 ∧ signed5 0xFFF1 ≠ -16 := by
  decide

theorem witness_ShiftByNegatedSixteen :
    ({ State.reset with r1 := 0x0010#16 }.reg .r1).toNat % 32 = 16 ∧
      ({ State.reset with r1 := 0xFFF0#16 }.reg .r1).toNat % 32 = 16 := by
  decide

/-- Every condition, met by one value of PS and not by another. -/
theorem witness_branch_conditions :
    ∀ c ∈ [Cond.uc, .us, .hi, .ls, .cc, .cs, .ne, .eq, .vc, .vs, .pl, .mi, .ge, .lt, .gt, .le],
      ∃ p ∈ [0x00#8, 0x22#8, 0xA4#8, 0x0A#8, 0x08#8], ∃ q ∈ [0x00#8, 0x22#8, 0xA4#8, 0x0A#8, 0x08#8],
        ({ State.reset with ps := p } : State).holds c = true ∧ ({ State.reset with ps := q } : State).holds c = false := by
  decide

theorem witness_ReturnAfterEntry :
    State.reset.region (State.reset.sp - 2#16) = .ram ∧ State.reset.region (State.reset.sp - 1#16) = .ram ∧
      State.reset.region (State.reset.sp - 3#16) = .ram := by
  decide

theorem witness_DivideUnsigned :
    { State.reset with r1 := 1#16 }.reg .r1 ≠ 0#16 ∧ { State.reset with r1 := 0xFFFF#16 }.reg .r1 ≠ 0#16 := by
  decide

/-- Both division modes, and the one pair of operands left open. -/
theorem witness_DivideSigned :
    (let s := { State.reset with r0 := 0x8000#16, r1 := 0x8000#16, ps := 0x40#8 }
    s.reg .r1 ≠ 0#16 ∧ ¬((s.reg .r0).toInt = -32768 ∧ (s.reg .r1).toInt = -1) ∧ s.flag .d = true) ∧
      (let s := { State.reset with r0 := 0x8001#16, r1 := 0xFFFF#16 }
      s.reg .r1 ≠ 0#16 ∧ ¬((s.reg .r0).toInt = -32768 ∧ (s.reg .r1).toInt = -1) ∧ s.flag .d = false) ∧
      (let s := { State.reset with r0 := 0x8000#16, r1 := 0xFFFF#16 }
      s.reg .r1 ≠ 0#16 ∧ (s.reg .r0).toInt = -32768 ∧ (s.reg .r1).toInt = -1) := by
  decide

theorem witness_DivideByZero : State.reset.reg .r1 = 0#16 := by decide

theorem witness_SquareRoot :
    ({ State.reset with r1 := 0x7FFF#16 }.reg .r1).toNat < 32768 ∧ ¬({ State.reset with r1 := 0x8000#16 }.reg .r1).toNat < 32768 := by
  decide

end Sys2Proof.Tests
end

section
/-! SUPPORT. What an instruction may write and what it keeps, said once for all instructions (R21, R22, R35, R57): one
rule for each named update of State, one lemma for each shared ending, and one split over the instructions. -/

namespace Sys2Proof.Machine

/-! Flags: what each flag computation keeps (R35). -/

/-- `p` has every flag of `ps` but those listed. -/
def PS.KeptBut (ps p : Byte) (written : List Flag) : Prop := ∀ f, f ∉ written → PS.get p f = PS.get ps f

theorem PS.logic_keptBut (ps : Byte) (v : Word) : PS.KeptBut ps (PS.logic ps v) [.n, .z, .v, .c] := by
  intro f hf; cases f <;> simp_all [PS.get_logic]

theorem PS.clearArith_keptBut (ps : Byte) : PS.KeptBut ps (PS.clearArith ps) [.n, .z, .v, .x, .c] := by
  intro f hf; cases f <;> simp_all [PS.get_clearArith]

theorem PS.compare_keptBut (ps : Byte) (r : ArithResult) : PS.KeptBut ps (PS.compare ps r) [.n, .z, .v, .c] := by
  intro f hf; cases f <;> simp_all [PS.get_compare]

theorem PS.arith_keptBut (ps : Byte) (r : ArithResult) : PS.KeptBut ps (PS.arith ps r) [.n, .z, .v, .x, .c] := by
  intro f hf; cases f <;> simp_all [PS.get_arith]

theorem PS.extended_keptBut (ps : Byte) (r : ArithResult) : PS.KeptBut ps (PS.extended ps r) [.n, .z, .v, .x, .c] := by
  intro f hf; cases f <;> simp_all [PS.get_extended]

theorem PS.absNonNegative_keptBut (ps : Byte) (v : Word) :
    PS.KeptBut ps (PS.absNonNegative ps v) [.n, .z, .v, .x, .c] := by
  intro f hf; cases f <;> simp_all [PS.get_absNonNegative]

/-- A shift that does not write X keeps it (R172). -/
theorem PS.shift_keptBut (ps : Byte) (v : Word) (overflow out writesX : Bool) :
    PS.KeptBut ps (PS.shift ps v overflow out writesX) (if writesX then [.n, .z, .v, .x, .c] else [.n, .z, .v, .c]) := by
  intro f hf; cases writesX <;> cases f <;> simp_all [PS.get_shift]

theorem PS.weight_keptBut (ps : Byte) (w : Word) : PS.KeptBut ps (PS.weight ps w) [.n, .z, .v, .x, .c] := by
  intro f hf; cases f <;> simp_all [PS.get_weight]

theorem PS.bitTest_keptBut (ps : Byte) (b : Bool) : PS.KeptBut ps (PS.bitTest ps b) [.z] := by
  intro f hf; cases f <;> simp_all [PS.get_bitTest]

/-- A byte that may differ in any flag. -/
theorem PS.all_keptBut (ps p : Byte) : PS.KeptBut ps p [.i, .n, .z, .v, .x, .c, .d, .u] := by
  intro f hf; cases f <;> simp at hf

theorem PS.KeptBut.mono {ps p : Byte} {F G : List Flag} (h : PS.KeptBut ps p F) (hFG : F ⊆ G) : PS.KeptBut ps p G :=
  fun f hf => h f (fun hm => hf (hFG hm))

theorem PS.KeptBut.refl (ps : Byte) (F : List Flag) : PS.KeptBut ps ps F := fun _ _ => rfl

theorem PS.KeptBut.trans {ps p q : Byte} {F : List Flag} (h : PS.KeptBut ps p F) (h' : PS.KeptBut p q F) :
    PS.KeptBut ps q F := fun f hf => (h' f hf).trans (h f hf)

theorem PS.KeptBut.put {ps p : Byte} {F : List Flag} {g : Flag} (h : PS.KeptBut ps p F) (hg : g ∈ F) (b : Bool) :
    PS.KeptBut ps (PS.put p g b) F := by
  intro f hf
  have hne : f ≠ g := fun e => hf (e ▸ hg)
  simpa [hne] using h f hf

/-! The frame, and one rule for each update of State. -/

/-- What may be written: general registers, flags, addresses stored to, and whether SP. -/
structure Writes where
  regs : List Reg
  flags : List Flag
  bytes : List Word
  sp : Bool

/-- What an instruction may write from a state, by the lists that the statements name. -/
def State.writes (s : State) (i : Instr) : Writes :=
  { regs := regsWritten i, flags := flagsWritten s i, bytes := bytesStored s i, sp := writesSp s i }

/-- `t` differs from `s` in what `w` lists and in the pc only. A byte of memory that differs is moreover in ram, and memory
stays canonical. -/
structure Frame (s t : State) (w : Writes) : Prop where
  regs : RegsKept s t w.regs
  flags : PS.KeptBut s.ps t.ps w.flags
  changed : ∀ a : Word, Memory.read t.mem a.toNat ≠ Memory.read s.mem a.toNat → a ∈ w.bytes ∧ s.region a = .ram
  canonical : Memory.wf s.mem → Memory.wf t.mem
  devices : w.bytes = [] → t.devOut = s.devOut
  sp : w.sp = false → t.sp = s.sp
  platform : PlatformKept s t
  prefetch : t.prefetch = s.prefetch

namespace Frame

theorem refl (s : State) (w : Writes) : Frame s s w where
  regs _ _ := rfl
  flags _ _ := rfl
  changed _ h := absurd rfl h
  canonical := id
  devices _ := rfl
  sp _ := rfl
  platform := ⟨rfl, rfl, rfl⟩
  prefetch := rfl

variable {s t : State} {w : Writes}

theorem region_eq (h : Frame s t w) (a : Word) : t.region a = s.region a := by
  simp only [State.region, h.platform.1]

theorem setReg (h : Frame s t w) {r : Reg} (hr : r ∈ w.regs) (v : Word) : Frame s (t.setReg r v) w where
  regs q hq := by
    have hne : q ≠ r := fun e => hq (e ▸ hr)
    simpa [hne] using h.regs q hq
  flags := by simpa using h.flags
  changed := by simpa using h.changed
  canonical := by simpa using h.canonical
  devices := by simpa using h.devices
  sp := by simpa using h.sp
  platform := by simpa [PlatformKept] using h.platform
  prefetch := by simpa using h.prefetch

theorem bump (h : Frame s t w) {ri : IndexReg} (hr : indexReg ri ∈ w.regs) (size : Nat) : Frame s (t.bump ri size) w :=
  h.setReg hr _

theorem setPs (h : Frame s t w) {p : Byte} (hp : PS.KeptBut s.ps p w.flags) : Frame s (t.setPs p) w :=
  { h with flags := hp }

/-- `ClearArith` and the next instruction (R220). -/
theorem finishClear (h : Frame s t w) (hw : [.n, .z, .v, .x, .c] ⊆ w.flags) : Frame s t.finishClear w :=
  { h with flags := h.flags.trans ((PS.clearArith_keptBut t.ps).mono hw) }

theorem setPc (h : Frame s t w) (v : Word) : Frame s (t.setPc v) w := { h with }

theorem advance (h : Frame s t w) (len : Nat) : Frame s (t.advance len) w := h.setPc _

theorem setSp (h : Frame s t w) (hs : w.sp = true) (v : Word) : Frame s (t.setSp v) w :=
  { h with sp := fun hf => by simp [hs] at hf }

theorem emit (h : Frame s t w) (hb : w.bytes ≠ []) (d : DeviceWrite) : Frame s (t.emit d) w :=
  { h with devices := fun he => absurd he hb }

theorem writeByte (h : Frame s t w) {a : Word} (ha : a ∈ w.bytes) (v : Byte) : Frame s (t.writeByte a v) w where
  regs := by simpa [RegsKept] using h.regs
  flags := by simpa using h.flags
  changed b hb := by
    rw [State.writeByte_memRead] at hb
    by_cases hab : b = a ∧ t.region a = .ram
    · obtain ⟨rfl, hram⟩ := hab
      exact ⟨ha, h.region_eq b ▸ hram⟩
    · rw [if_neg hab] at hb
      exact h.changed b hb
  canonical hwf := State.writeByte_wf t a v (h.canonical hwf)
  devices he := by simp [he] at ha
  sp := by simpa using h.sp
  platform := by simpa [PlatformKept] using h.platform
  prefetch := by simpa using h.prefetch

theorem writeWord (h : Frame s t w) {a : Word} (ha : a ∈ w.bytes) (ha1 : a + 1#16 ∈ w.bytes) (v : Word) :
    Frame s (t.writeWord a v) w := by
  unfold State.writeWord
  split
  · exact h.emit (List.ne_nil_of_mem ha) _
  · exact (h.writeByte ha _).writeByte ha1 _

theorem pushByte (h : Frame s t w) (hs : w.sp = true) (ha : t.sp - 1#16 ∈ w.bytes) (v : Byte) :
    Frame s (t.pushByte v) w := (h.setSp hs _).writeByte ha v

theorem pushWord (h : Frame s t w) (hs : w.sp = true) (ha : t.sp - 2#16 ∈ w.bytes) (ha1 : t.sp - 1#16 ∈ w.bytes)
    (v : Word) : Frame s (t.pushWord v) w := by
  have hnext : t.sp - 2#16 + 1#16 = t.sp - 1#16 := by bv_omega
  exact (h.setSp hs _).writeWord ha (hnext ▸ ha1) v

/-- Trap entry writes three bytes below SP, SP and I (R241). -/
theorem trapEntry (h : Frame s t w) (hs : w.sp = true) (hi : .i ∈ w.flags)
    (hb : ∀ a ∈ [t.sp - 3#16, t.sp - 2#16, t.sp - 1#16], a ∈ w.bytes) (ret vec : Word) :
    Frame s (t.trapEntry ret vec) w := by
  have hsp : (t.pushWord ret).sp - 1#16 = t.sp - 3#16 := by
    rw [(State.pushWord_stored t ret).1]; bv_omega
  have hw : Frame s (t.pushWord ret) w := h.pushWord hs (hb _ (by simp)) (hb _ (by simp)) ret
  have hpushed : Frame s ((t.pushWord ret).pushByte t.ps) w := hw.pushByte hs (hsp ▸ hb _ (by simp)) t.ps
  exact (hpushed.setPs (hpushed.flags.put hi false)).setPc vec

/-! What the frame says of reading. -/

theorem readByte_eq (h : Frame s t w) (k : Access) (a : Word)
    (ha : Memory.read t.mem a.toNat = Memory.read s.mem a.toNat) : t.readByte k a = s.readByte k a := by
  obtain ⟨-, -, hepoch⟩ := h.platform
  simp only [State.readByte, h.region_eq, hepoch, ha]

theorem memKeptBut (h : Frame s t w) : MemKeptBut s t w.bytes := fun k a ha =>
  h.readByte_eq k a (by_contra fun hne => ha (h.changed a hne).1)

theorem ramDiffers (h : Frame s t w) : RamDiffers s t :=
  ⟨h.region_eq, h.platform.2.2, fun a ha => (h.changed a ha).2⟩

theorem noStore {R : List Reg} {F : List Flag} {m : Bool} (h : Frame s t ⟨R, F, [], m⟩) : NoStore s t :=
  ⟨h.memKeptBut, h.devices rfl, h.prefetch, h.platform⟩

/-- What neither stores nor moves SP changes registers, flags and the pc only. -/
theorem onlyRegsAndFlags {R : List Reg} {F : List Flag} (h : Frame s t ⟨R, F, [], false⟩) : OnlyRegsAndFlags s t R F :=
  ⟨h.regs, h.flags, h.sp rfl, h.noStore⟩

end Frame

/-! The frame of each shared ending. -/

section Endings
variable (s : State)

theorem State.logicResult_frame (ra : Reg) (v : Word) (len : Nat) :
    Frame s (s.logicResult ra v len) ⟨[ra], [.n, .z, .v, .c], [], false⟩ :=
  (((Frame.refl s _).setReg (by simp) v).setPs (PS.logic_keptBut _ _)).advance len

theorem State.arithResult_frame (ra : Reg) (r : ArithResult) :
    Frame s (s.arithResult ra r) ⟨[ra], [.n, .z, .v, .x, .c], [], false⟩ :=
  (((Frame.refl s _).setReg (by simp) _).setPs (PS.arith_keptBut _ _)).advance 1

theorem State.extendedResult_frame (r : ArithResult) :
    Frame s (s.extendedResult r) ⟨[.r0], [.n, .z, .v, .x, .c], [], false⟩ :=
  (((Frame.refl s _).setReg (by simp) _).setPs (PS.extended_keptBut _ _)).advance 1

theorem State.bitTest_frame (ra : Reg) (k : BitVec 4) : Frame s (s.bitTest ra k) ⟨[], [.z], [], false⟩ :=
  ((Frame.refl s _).setPs (PS.bitTest_keptBut _ _)).advance 2

theorem State.bitWrite_frame (ra : Reg) (k : BitVec 4) (b : Bool) :
    Frame s (s.bitWrite ra k b) ⟨[ra], [.z], [], false⟩ :=
  (((Frame.refl s _).setReg (by simp) _).setPs (PS.bitTest_keptBut _ _)).advance 2

theorem State.branch_frame (c : Cond) (d : Byte) : Frame s (s.branch c d) ⟨[], [], [], false⟩ := by
  unfold State.branch
  split
  · exact (Frame.refl s _).setPc _
  · exact (Frame.refl s _).advance 2

theorem State.call_frame (target : Word) (len : Nat) :
    Frame s (s.call target len) ⟨[], [], [s.sp - 2#16, s.sp - 1#16], true⟩ :=
  ((Frame.refl s _).pushWord rfl (by simp) (by simp) _).setPc target

theorem State.load_frame {R : List Reg} {r : Reg} (hr : r ∈ R) (v : Word) :
    Frame s (s.load r v) ⟨R, [.n, .z, .v, .c], [], false⟩ :=
  ((Frame.refl s _).setReg hr v).setPs (PS.logic_keptBut _ _)

theorem State.storeWord_frame (R : List Reg) (ea : Word) (r : Reg) :
    Frame s (s.storeWord ea r) ⟨R, [.n, .z, .v, .c], [ea, ea + 1#16], false⟩ :=
  ((Frame.refl s _).writeWord (by simp) (by simp) _).setPs (PS.logic_keptBut _ _)

theorem State.storeByte_frame (R : List Reg) (ea : Word) (r : Reg) :
    Frame s (s.storeByte ea r) ⟨R, [.n, .z, .v, .c], [ea], false⟩ :=
  ((Frame.refl s _).writeByte (by simp) _).setPs (PS.logic_keptBut _ _)

theorem State.shift_frame {F : List Flag} (hF : [.n, .z, .v, .c] ⊆ F) (fn : ShiftFn) (hx : fn ≠ .rotate → .x ∈ F)
    (ra : Reg) (n : Int) : Frame s (s.shift fn ra n) ⟨[ra], F, [], false⟩ := by
  unfold State.shift
  split
  · exact ((Frame.refl s _).setPs ((PS.logic_keptBut _ _).mono hF)).advance 2
  · have hwritten : (if fn != .rotate then [Flag.n, .z, .v, .x, .c] else [.n, .z, .v, .c]) ⊆ F := by
      split
      next hfn => simpa [hx (by simpa using hfn)] using hF
      next => exact hF
    exact (((Frame.refl s _).setReg (by simp) _).setPs ((PS.shift_keptBut _ _ _ _ _).mono hwritten)).advance 2

theorem State.shiftFree_frame (ra : Reg) : Frame s (s.shiftFree ra) ⟨[ra], [.n, .z, .v, .x, .c], [], false⟩ := by
  have hps : PS.KeptBut s.ps (s.shiftFree ra).ps [.n, .z, .v, .x, .c] :=
    (((((PS.KeptBut.refl s.ps _).put (by simp) _).put (by simp) _).put (by simp) _).put (by simp) _).put (by simp) _
  exact (((Frame.refl s _).setReg (by simp) _).setPs hps).advance 2

theorem State.shiftRight_frame (fn : ShiftFn) (ra : Reg) (count : Option Int) :
    Frame s (s.shiftRight fn ra count) ⟨[ra], [.n, .z, .v, .x, .c], [], false⟩ := by
  cases count with
  | none => exact s.shiftFree_frame ra
  | some n => exact s.shift_frame (by simp) fn (by simp) ra n

theorem State.weigh_frame (ra : Reg) (n : Int) : Frame s (s.weigh ra n) ⟨[ra], [.n, .z, .v, .x, .c], [], false⟩ :=
  (((Frame.refl s _).setReg (by simp) _).setPs (PS.weight_keptBut _ _)).advance 2

theorem State.weighRight_frame (ra : Reg) (count : Option Int) :
    Frame s (s.weighRight ra count) ⟨[ra], [.n, .z, .v, .x, .c], [], false⟩ := by
  cases count with
  | none => exact s.shiftFree_frame ra
  | some n => exact s.weigh_frame ra n

theorem State.trapReturn_frame :
    Frame s s.trapReturn ⟨[], [.i, .n, .z, .v, .x, .c, .d, .u], [], true⟩ :=
  (((((Frame.refl s _).setPs (PS.all_keptBut _ _)).setSp rfl _).setPc _).setSp rfl _)

/-- A divide by zero is a trap entry, after which the five arithmetic flags may differ from before (R243). -/
theorem State.raiseDivideByZero_frame (R : List Reg) :
    Frame s s.raiseDivideByZero
      ⟨R, [.i, .n, .z, .v, .x, .c], [s.sp - 3#16, s.sp - 2#16, s.sp - 1#16], true⟩ := by
  have hps : PS.KeptBut s.ps (if Config.divZeroClearsFlags then PS.clearArith s.ps else s.ps) [.i, .n, .z, .v, .x, .c] := by
    split
    · exact (PS.clearArith_keptBut s.ps).mono (by simp)
    · exact PS.KeptBut.refl _ _
  exact ((Frame.refl s _).setPs hps).trapEntry rfl (by simp) (fun _ ha => ha) _ _

end Endings

/-! What an instruction does, said once: one split over the instructions, by ending. -/

/-- An instruction changes only what it may write, or it stores what it may and then retires, with the next opcode byte
perhaps prefetched (R283). -/
def Effect (s : State) (i : Instr) (t : State) : Prop :=
  Frame s t (s.writes i) ∨ ∃ u, Frame s u (s.writes i) ∧ t = s.retireStore u i.len

theorem execDivu_frame {s t : State} (h : exec .divu s = .next t) : Frame s t (s.writes .divu) := by
  simp only [exec, execDivu] at h
  split at h
  next hz =>
    cases h
    simpa [State.writes, regsWritten, flagsWritten, bytesStored, writesSp, hz] using s.raiseDivideByZero_frame [.r2, .r3]
  next hz =>
    cases h
    simp only [State.writes, regsWritten, flagsWritten, bytesStored, writesSp, hz, if_false]
    exact (((Frame.refl s _).setReg (by simp) _).setReg (by simp) _).finishClear (by simp)

theorem execDivs_frame {s t : State} (h : exec .divs s = .next t) : Frame s t (s.writes .divs) := by
  simp only [exec, execDivs] at h
  split at h
  next hz =>
    cases h
    simpa [State.writes, regsWritten, flagsWritten, bytesStored, writesSp, hz] using
      s.raiseDivideByZero_frame [.r1, .r2, .r3]
  next hz =>
    cases h
    simp only [State.writes, regsWritten, flagsWritten, bytesStored, writesSp, hz, if_false]
    exact ((((Frame.refl s _).setReg (by simp) _).setReg (by simp) _).setReg (by simp) _).finishClear (by simp)

theorem execAbs_frame {s t : State} {ra : Reg} (h : exec (.abs ra) s = .next t) :
    Frame s t ⟨[ra], [.n, .z, .v, .x, .c], [], false⟩ := by
  simp only [exec, execAbs] at h
  split at h
  next => cases h; exact s.arithResult_frame _ _
  next => cases h; exact ((Frame.refl s _).setPs (PS.absNonNegative_keptBut _ _)).advance 1

/-- What each instruction can do: the instructions by the ending they share. -/
theorem exec_effect {s t : State} {i : Instr} (h : exec i s = .next t) : Effect s i t := by
  cases i with
  | move | sxt | and | xor | clr | or | inv => cases h; exact .inl (s.logicResult_frame _ _ _)
  | test => cases h; exact .inl (((Frame.refl s _).setPs (PS.logic_keptBut _ _)).advance 1)
  | add | addq | sub | neg => cases h; exact .inl (s.arithResult_frame _ _)
  | cmp => cases h; exact .inl (((Frame.refl s _).setPs (PS.compare_keptBut _ _)).advance 1)
  | abs => exact .inl (execAbs_frame h)
  | addx | subx | negx => cases h; exact .inl (s.extendedResult_frame _)
  | ldwInd | ldbInd | ldwSp | ldbSp | ldwAbs | ldbAbs | ldwImm | ldbImm =>
    cases h; exact .inl ((s.load_frame (List.mem_singleton_self _) _).advance _)
  | ldwInc | ldbInc =>
    cases h; exact .inl (((s.load_frame (List.mem_cons_self ..) _).bump (by simp) _).advance 1)
  | stwInd | stwSp | stwAbs => cases h; exact .inr ⟨_, s.storeWord_frame _ _ _, rfl⟩
  | stbInd | stbSp | stbAbs => cases h; exact .inr ⟨_, s.storeByte_frame _ _ _, rfl⟩
  | stwInc => cases h; exact .inr ⟨_, (s.storeWord_frame _ _ _).bump (List.mem_singleton_self _) 2, rfl⟩
  | stbInc => cases h; exact .inr ⟨_, (s.storeByte_frame _ _ _).bump (List.mem_singleton_self _) 1, rfl⟩
  | pushReg =>
    cases h
    exact .inr ⟨_, ((Frame.refl s _).pushWord rfl (by simp [State.writes, bytesStored])
      (by simp [State.writes, bytesStored]) _).setPs (PS.logic_keptBut _ _), rfl⟩
  | pushPs => cases h; exact .inr ⟨_, (Frame.refl s _).pushByte rfl (List.mem_singleton_self _) _, rfl⟩
  | popReg =>
    cases h
    exact .inl (((((Frame.refl s _).setReg (List.mem_singleton_self _) _).setSp rfl _).setPs
      (PS.logic_keptBut _ _)).advance 1)
  | popPs => cases h; exact .inl ((((Frame.refl s _).setPs (PS.all_keptBut _ _)).setSp rfl _).advance 1)
  | ret => cases h; exact .inl (((Frame.refl s _).setPc _).setSp rfl _)
  | reti => cases h; exact .inl s.trapReturn_frame
  | trap => cases h; exact .inl ((Frame.refl s _).trapEntry rfl (List.mem_singleton_self _) (fun _ ha => ha) _ _)
  | jsrR0 | jsrAbs => cases h; exact .inl (s.call_frame _ _)
  | lslImm | lslReg | aslImm | aslReg | roxlImm | roxlReg =>
    cases h; exact .inl (s.shift_frame (by simp [flagsWritten]) _ (by simp [flagsWritten]) _ _)
  | rolImm | rolReg => cases h; exact .inl (s.shift_frame (List.Subset.refl _) .rotate (by simp) _ _)
  | lsrReg | asrReg | rorReg | roxrReg => cases h; exact .inl (s.shiftRight_frame _ _ _)
  | lslWt | aslWt | rolWt | roxlWt => cases h; exact .inl (s.weigh_frame _ _)
  | lsrWt | asrWt | rorWt | roxrWt => cases h; exact .inl (s.weighRight_frame _ _)
  | btstImm | btstReg => cases h; exact .inl (s.bitTest_frame _ _)
  | bchgImm | bchgReg | bclrImm | bclrReg | bsetImm | bsetReg => cases h; exact .inl (s.bitWrite_frame _ _ _)
  | buc | bus | bhi | bls | bcc | bcs | bne | beq | bvc | bvs | bpl | bmi | bge | blt | bgt | ble =>
    cases h; exact .inl (s.branch_frame _ _)
  | jmpR0 | jmpAbs => cases h; exact .inl ((Frame.refl s _).setPc _)
  | nop | nopC5 => cases h; exact .inl ((Frame.refl s _).advance 1)
  | moveR0Sp => cases h; exact .inl (((Frame.refl s _).setReg (List.mem_singleton_self _) _).advance 1)
  | moveSpR0 | addSp => cases h; exact .inl (((Frame.refl s _).setSp rfl _).advance _)
  | andPs | orPs => cases h; exact .inl (((Frame.refl s _).setPs (PS.all_keptBut _ _)).advance 2)
  | mulu =>
    cases h
    refine .inl (Frame.finishClear ?_ (List.Subset.refl _))
    exact ((Frame.refl s _).setReg (by simp [State.writes, regsWritten]) _).setReg (by simp [State.writes, regsWritten]) _
  | muls | sqrt =>
    cases h
    refine .inl (Frame.finishClear ?_ (List.Subset.refl _))
    exact (((Frame.refl s _).setReg (by simp [State.writes, regsWritten]) _).setReg
      (by simp [State.writes, regsWritten]) _).setReg (by simp [State.writes, regsWritten]) _
  | divu => exact .inl (execDivu_frame h)
  | divs => exact .inl (execDivs_frame h)
  | shReserved | bitImmReserved | bitRegReserved => cases h

/-- Settles O8: the frame of `exec_effect`; retiring a store changes the pc and the prefetched byte only. -/
theorem frameOfEveryInstruction : Obligations.FrameOfEveryInstruction := by
  intro s t i h
  rcases exec_effect h with ht | ⟨u, hu, rfl⟩
  · exact ⟨ht.regs, ht.flags, ht.memKeptBut, ht.sp, ht.platform⟩
  · exact ⟨hu.regs, hu.flags, hu.memKeptBut, hu.sp, hu.platform⟩

end Sys2Proof.Machine
end

section
/-! SUPPORT. What a step can do, and the statements about the machine's state (R33, R34, R38, R39, R52, R283):
the memory as data, the writers of D and U, and the invariant. -/

namespace Sys2Proof.Machine

/-! Canonical memory as a set of cells (R38). -/

/-- A byte that does not read as an unlisted one is listed. -/
theorem Memory.mem_of_read_ne (m : Memory) (a : Nat) (h : Memory.read m a ≠ Memory.unlisted) :
    (a, Memory.read m a) ∈ m := by
  induction m with
  | nil => exact absurd rfl h
  | cons cell rest ih =>
    obtain ⟨k, b⟩ := cell
    by_cases hk : k = a
    · simp [Memory.read, hk]
    · simp only [Memory.read, hk, if_false] at h ⊢
      exact List.mem_cons_of_mem _ (ih h)

/-- A listed byte is read back where addresses strictly rise: no other entry is for its address. -/
theorem Memory.read_of_mem {m : Memory} (hs : m.Pairwise (fun p q => p.1 < q.1)) {cell : Host.Cell} (h : cell ∈ m) :
    Memory.read m cell.1 = cell.2 := by
  induction m with
  | nil => cases h
  | cons head rest ih =>
    obtain ⟨hhead, hrest⟩ := List.pairwise_cons.1 hs
    rcases List.mem_cons.1 h with rfl | hmem
    · simp [Memory.read]
    · have hne : head.1 ≠ cell.1 := (hhead cell hmem).ne
      simpa [Memory.read, hne] using ih hrest hmem

/-- What a canonical memory lists is what does not read as unlisted. -/
theorem Memory.mem_iff_read {m : Memory} (hm : Memory.wf m) (cell : Host.Cell) :
    cell ∈ m ↔ cell.1 < 65536 ∧ Memory.read m cell.1 = cell.2 ∧ cell.2 ≠ Memory.unlisted := by
  constructor
  · intro h
    exact ⟨(hm.2 cell h).1, Memory.read_of_mem hm.1 h, (hm.2 cell h).2⟩
  · rintro ⟨-, hread, hne⟩
    have hmem := Memory.mem_of_read_ne m cell.1 (hread ▸ hne)
    rwa [hread] at hmem

theorem loadBytes_wf (m : Memory) (load : List (Word × Byte)) (h : Memory.wf m) : Memory.wf (loadBytes m load) := by
  induction load generalizing m with
  | nil => exact h
  | cons cell rest ih => exact ih _ (Memory.write_wf m cell.1.toNat cell.2 cell.1.isLt h)

/-! What a step can do (R245, R247, R277). -/

/-- A step takes a reset, enters the interrupt handler, or runs the instruction at the pc. -/
theorem step_cases {s t : State} (h : step s = .next t) :
    (∃ regs load, s.boundary = .reset regs load ∧ t = s.takeReset regs load) ∨
      (s.interrupted = true ∧ t = s.takeInterrupt) ∨
      ∃ u, exec s.fetched s.passBoundary = .next u ∧ t = u.nextEpoch := by
  unfold step at h
  split at h
  next regs load hb => cases h; exact .inl ⟨regs, load, hb, rfl⟩
  next =>
    split at h
    next hi => cases h; exact .inr (.inl ⟨hi, rfl⟩)
    next =>
      cases hu : exec s.fetched s.passBoundary with
      | next u => rw [hu] at h; cases h; exact .inr (.inr ⟨u, rfl, rfl⟩)
      | fault f => rw [hu] at h; cases h
      | refused r => rw [hu] at h; cases h

/-! The writers of D and U (R33, R34). -/

/-- Of all instructions only four list D or U. -/
theorem writer_of_mem_flagsWritten {s : State} {i : Instr} {f : Flag} (hf : f = .d ∨ f = .u) (h : f ∈ flagsWritten s i) :
    i = .popPs ∨ i = .reti ∨ (∃ imm, i = .andPs imm) ∨ ∃ imm, i = .orPs imm := by
  cases i with
  | popPs | reti | andPs | orPs => simp
  | divu | divs => simp only [flagsWritten] at h; split at h <;> rcases hf with rfl | rfl <;> simp at h
  | _ => rcases hf with rfl | rfl <;> simp [flagsWritten] at h

theorem takeInterrupt_flag (s : State) {f : Flag} (hf : f ≠ .i) : s.takeInterrupt.flag f = s.flag f := by
  obtain ⟨⟨-, -, -, hflags, -⟩, -⟩ := State.trapEntry_entered s.passBoundary s.pc Config.extIntVector
  exact hflags f hf

/-- A step that changes D or U takes a reset or runs one of the four instructions that write them. -/
theorem step_flag_writer {s t : State} (h : step s = .next t) {f : Flag} (hf : f = .d ∨ f = .u)
    (hne : t.flag f ≠ s.flag f) :
    (∃ regs load, s.boundary = .reset regs load) ∨ s.fetched = .popPs ∨ s.fetched = .reti ∨
      (∃ imm, s.fetched = .andPs imm) ∨ ∃ imm, s.fetched = .orPs imm := by
  rcases step_cases h with ⟨regs, load, hb, -⟩ | ⟨-, rfl⟩ | ⟨u, hu, rfl⟩
  · exact .inl ⟨regs, load, hb⟩
  · have hi : f ≠ .i := by rcases hf with rfl | rfl <;> decide
    exact absurd (takeInterrupt_flag s hi) hne
  · obtain ⟨-, hflags, -⟩ := frameOfEveryInstruction s.passBoundary u s.fetched hu
    have hmem : f ∈ flagsWritten s.passBoundary s.fetched := by_contra fun hm => hne (hflags f hm)
    exact .inr (writer_of_mem_flagsWritten hf hmem)

/-! The invariant (R38, R283). -/

/-- Where memory differs in ram only, a byte that reads differently is in ram. -/
theorem RamDiffers.region_of_readByte_ne {s t : State} (h : RamDiffers s t) {k : Access} {a : Word}
    (hne : t.readByte k a ≠ s.readByte k a) : t.region a = .ram := by
  obtain ⟨hregion, hepoch, hram⟩ := h
  rw [hregion]
  refine hram a fun hread => hne ?_
  simp only [State.readByte, hregion, hepoch, hread]

/-- An instruction that starts with no byte waiting leaves the invariant: a byte waits only after a store that replaced it. -/
theorem Effect.inv {s t : State} {i : Instr} (h : Effect s i t) (hwf : Memory.wf s.mem) (hp : s.prefetch = none) :
    t.Inv := by
  rcases h with ht | ⟨u, hu, rfl⟩
  · refine ⟨ht.canonical hwf, fun old hold => ?_⟩
    simp [ht.prefetch, hp] at hold
  · refine ⟨hu.canonical hwf, fun old hold => ?_⟩
    obtain ⟨hne, rfl⟩ := (State.retireStore_prefetch s u i.len hu.ramDiffers old).1 hold
    exact ⟨hu.ramDiffers.region_of_readByte_ne hne, hne.symm⟩

/-- A byte of ram reads the same in the next draw epoch. -/
theorem State.nextEpoch_readByte_of_ram (s : State) (k : Access) {a : Word} (h : s.region a = .ram) :
    s.nextEpoch.readByte k a = s.readByte k a := by
  simp [State.readByte, h]

theorem State.Inv.nextEpoch {s : State} (h : s.Inv) : s.nextEpoch.Inv := by
  refine ⟨h.1, fun old hold => ?_⟩
  obtain ⟨hram, hne⟩ := h.2 old hold
  exact ⟨hram, by rwa [s.nextEpoch_pc, s.nextEpoch_readByte_of_ram .fetch hram]⟩

theorem State.inv_of_no_prefetch {s : State} (hwf : Memory.wf s.mem) (hp : s.prefetch = none) : s.Inv :=
  ⟨hwf, fun old hold => by simp [hp] at hold⟩

theorem State.takeInterrupt_inv {s : State} (h : Memory.wf s.mem) : s.takeInterrupt.Inv := by
  obtain ⟨-, -, hp⟩ := State.trapEntry_entered s.passBoundary s.pc Config.extIntVector
  exact State.inv_of_no_prefetch (State.trapEntry_wf s.passBoundary s.pc Config.extIntVector h) hp

/-! The statements. -/

/-- Settles O3: a reset and an interrupt leave no byte waiting, and an instruction starts with none. -/
theorem stepKeepsInvariant : Obligations.StepKeepsInvariant := by
  intro s t hinv h
  rcases step_cases h with ⟨regs, load, -, rfl⟩ | ⟨-, rfl⟩ | ⟨u, hu, rfl⟩
  · exact State.inv_of_no_prefetch (loadBytes_wf s.mem load hinv.1) rfl
  · exact State.takeInterrupt_inv hinv.1
  · exact ((exec_effect hu).inv hinv.1 rfl).nextEpoch

/-- Settles O9, for D and for U by one lemma about a flag that is either. -/
theorem divisionModeAndUserFlagWriters : Obligations.DivisionModeAndUserFlagWriters := by
  rintro s t h (hd | hu)
  · exact step_flag_writer h (.inl rfl) hd
  · exact step_flag_writer h (.inr rfl) hu

/-- Settles O18: canonical memories that read the same list the same cells, and a strictly rising list is its cells. -/
theorem equalMemoriesAreEqualData : Obligations.EqualMemoriesAreEqualData := by
  intro m n hm hn hread
  have hmem : ∀ cell, cell ∈ m ↔ cell ∈ n := fun cell => by
    rw [Memory.mem_iff_read hm, Memory.mem_iff_read hn]
    exact and_congr_right fun hlt => by rw [hread cell.1 hlt]
  have hperm : m.Perm n := (List.perm_ext_iff_of_nodup (hm.1.imp fun hlt he => hlt.ne (congrArg Prod.fst he))
    (hn.1.imp fun hlt he => hlt.ne (congrArg Prod.fst he))).2 hmem
  exact hperm.eq_of_pairwise (fun _ _ _ _ hlt hgt => absurd hlt hgt.asymm) hm.1 hn.1

/-- Settles O2: nothing is listed and nothing waits. -/
theorem invariantAtReset : Obligations.InvariantAtReset := State.inv_of_no_prefetch Memory.empty_wf rfl

end Sys2Proof.Machine
end

section
/-! SUPPORT. Words and bytes of ram read back after stores (R51 to R56), and the one fetch hazard: when an opcode byte waits
as prefetched after a step, and what the next opcode fetch then sees (R66, R283). -/

namespace Sys2Proof.Machine

/-! Words in ram (R55). -/

section Words
variable {s : State} {a : Word}

/-- The lower address of a stored word holds its low byte: the high byte went to the other address. -/
theorem State.writeWord_readByte_lo (hlo : s.region a = .ram) (v : Word) (k : Access) :
    (s.writeWord a v).readByte k a = loByte v := by
  rw [State.writeWord_readByte, if_neg fun h => word_addr_ne a h.1.symm, if_pos ⟨rfl, hlo⟩]

theorem State.writeWord_readByte_hi (hhi : s.region (a + 1#16) = .ram) (v : Word) (k : Access) :
    (s.writeWord a v).readByte k (a + 1#16) = hiByte v := by
  rw [State.writeWord_readByte, if_pos ⟨rfl, hhi⟩]

theorem State.writeWord_readWord (hlo : s.region a = .ram) (hhi : s.region (a + 1#16) = .ram) (v : Word) (k : Access) :
    (s.writeWord a v).readWord k a = v := by
  rw [State.readWord, State.writeWord_readByte_lo hlo, State.writeWord_readByte_hi hhi, joinBytes_lo_hi]

/-- A byte stored at the lower address replaces the low-order byte of the word and keeps the other. -/
theorem State.writeByte_readWord (hlo : s.region a = .ram) (b : Byte) (k : Access) :
    (s.writeByte a b).readWord k a = joinBytes b (s.readByte k (a + 1#16)) := by
  rw [State.readWord, State.writeByte_readByte, if_pos ⟨rfl, hlo⟩, State.writeByte_readByte,
    if_neg fun h => word_addr_ne a h.1]

end Words

/-- Settles O17: each half of the word is read back at its own address, and a byte store replaces the lower half. -/
theorem wordsInMemory : Obligations.WordsInMemory := by
  intro s a v b k hlo hhi
  refine ⟨State.writeWord_readWord hlo hhi v k, ?_, ?_, ?_⟩
  · rw [State.writeWord_readByte_lo hlo, loByte_toNat]
  · rw [State.writeWord_readByte_hi hhi, hiByte_toNat]
  · have hram : (s.writeWord a v).region a = .ram := by rwa [State.writeWord_region]
    rw [State.writeByte_readWord hram, State.writeWord_readByte_hi hhi, joinBytes_toNat, hiByte_toNat]

/-! The fetch hazard (R283). -/

/-- With no byte waiting, the opcode fetched is the one in memory (R66). -/
theorem State.opcodeByte_of_prefetch_none {s : State} (h : s.prefetch = none) :
    s.opcodeByte = s.readByte .fetch s.pc := by
  rw [State.opcodeByte, h]

/-- With a byte waiting, a free bit decides between it and the one in memory (R283). -/
theorem State.opcodeByte_of_prefetch_some {s : State} {old : Byte} (h : s.prefetch = some old) :
    s.opcodeByte = if Config.freeBit s.epoch .prefetchOld then old else s.readByte .fetch s.pc := by
  rw [State.opcodeByte, h]

theorem State.takeInterrupt_prefetch (s : State) : s.takeInterrupt.prefetch = none :=
  (State.trapEntry_entered s.passBoundary s.pc Config.extIntVector).2.2

/-- A byte waits after a step only where the step ran an instruction: a reset and an interrupt leave none. -/
theorem step_runs_of_prefetch_some {s t : State} {old : Byte} (h : step s = .next t) (hold : t.prefetch = some old) :
    ∃ u, Effect s.passBoundary s.fetched u ∧ t = u.nextEpoch := by
  rcases step_cases h with ⟨regs, load, -, rfl⟩ | ⟨-, rfl⟩ | ⟨u, hu, rfl⟩
  · cases hold
  · rw [State.takeInterrupt_prefetch] at hold; cases hold
  · exact ⟨u, exec_effect hu, rfl⟩

/-- An instruction that leaves a byte waiting retired a store which changed the byte at its successor: one that it stores
to, in ram, and the waiting byte is the one held there before. -/
theorem Effect.of_prefetch_some {s t : State} {i : Instr} {old : Byte} (h : Effect s i t) (hp : s.prefetch = none)
    (hold : t.prefetch = some old) :
    t.pc = s.nextPc i.len ∧ t.pc ∈ bytesStored s i ∧ t.region t.pc = .ram ∧ old = s.readByte .fetch t.pc ∧
      old ≠ t.readByte .fetch t.pc := by
  rcases h with ht | ⟨u, hu, rfl⟩
  · rw [ht.prefetch, hp] at hold; cases hold
  · obtain ⟨hne, rfl⟩ := (State.retireStore_prefetch s u i.len hu.ramDiffers old).1 hold
    have hstored : s.nextPc i.len ∈ bytesStored s i := by_contra fun hmem => hne (hu.memKeptBut .fetch _ hmem)
    exact ⟨rfl, hstored, hu.ramDiffers.region_of_readByte_ne hne, rfl, hne.symm⟩

/-- The addresses stored to do not depend on what waits at the boundary. -/
theorem bytesStored_passBoundary (s : State) (i : Instr) : bytesStored s.passBoundary i = bytesStored s i := rfl

/-- Settles O7: what waits is left by a retired store, whose successor is in ram, so the byte in memory is the same in the
next draw epoch. -/
theorem prefetchHazard : Obligations.PrefetchHazard := by
  intro s t h
  refine ⟨State.opcodeByte_of_prefetch_none, fun old hold => ?_⟩
  obtain ⟨u, hu, rfl⟩ := step_runs_of_prefetch_some h hold
  obtain ⟨hpc, hstored, hram, hold', hne⟩ := hu.of_prefetch_some s.passBoundary_prefetch hold
  refine ⟨hpc, bytesStored_passBoundary s s.fetched ▸ hstored, hold', ?_, State.opcodeByte_of_prefetch_some hold⟩
  rwa [u.nextEpoch_pc, u.nextEpoch_readByte_of_ram .fetch hram]

end Sys2Proof.Machine
end

section
/-! SUPPORT. Decoding by formats (R80 to R96): the fields of a byte in each format, what decoding reads from each format, and
that an instruction is read back from its own encoding. -/

namespace Sys2Proof

open Sys2Proof.Machine

/-! The fields of a byte in each format (R81): each is read back from the byte that the encoder puts together. -/

theorem threeBits_ne_zero_iff (zero : BitVec 3) :
    (zero != 0#3) = true ↔ zero.getLsbD 2 = true ∨ zero.getLsbD 1 = true ∨ zero.getLsbD 0 = true := by
  revert zero; decide

section Fields
variable (g cc k : BitVec 4) (f a : BitVec 2) (i c l w z : BitVec 1) (n : BitVec 5) (zero : BitVec 3)

/-- `gggg ff aa`: formats RR, Q, SPR, ABS, IMW, IMB, SH and BIT. -/
theorem opcode_fields :
    (g ++ f ++ a : Byte).extractLsb' 4 4 = g ∧ (g ++ f ++ a : Byte).extractLsb' 2 2 = f ∧
      (g ++ f ++ a : Byte).extractLsb' 0 2 = a := by
  simp (disch := decide) only [BitVec.extractLsb'_append_eq_of_le, BitVec.extractLsb'_append_eq_right, Nat.reduceSub,
    BitVec.extractLsb'_eq_self, and_self]

/-- `gggg ff i c`: format IND. -/
theorem indirect_fields :
    (g ++ f ++ i ++ c : Byte).extractLsb' 4 4 = g ∧ (g ++ f ++ i ++ c : Byte).extractLsb' 2 2 = f ∧
      (g ++ f ++ i ++ c : Byte).extractLsb' 1 1 = i ∧ (g ++ f ++ i ++ c : Byte).extractLsb' 0 1 = c := by
  simp (disch := decide) only [BitVec.extractLsb'_append_eq_of_le, BitVec.extractLsb'_append_eq_right, Nat.reduceSub,
    BitVec.extractLsb'_eq_self, and_self]

/-- `gggg cccc`: format BR. -/
theorem nibble_fields : (g ++ cc : Byte).extractLsb' 4 4 = g ∧ (g ++ cc : Byte).extractLsb' 0 4 = cc := by
  simp (disch := decide) only [BitVec.extractLsb'_append_eq_of_le, BitVec.extractLsb'_append_eq_right, Nat.reduceSub,
    BitVec.extractLsb'_eq_self, and_self]

/-- `ff 0 nnnnn`: a shift by an immediate count. -/
theorem shiftImm_fields :
    (f ++ 0#1 ++ n : Byte).extractLsb' 6 2 = f ∧ (f ++ 0#1 ++ n : Byte).getLsbD 5 = false ∧
      (f ++ 0#1 ++ n : Byte).extractLsb' 0 5 = n := by
  simp (disch := decide) only [BitVec.extractLsb'_append_eq_of_le, BitVec.extractLsb'_append_eq_right, Nat.reduceSub,
    BitVec.extractLsb'_eq_self, BitVec.getLsbD_append]
  simp

/-- `ff 1 l w z aa`: a shift by a register. -/
theorem shiftReg_fields :
    (f ++ 1#1 ++ l ++ w ++ z ++ a : Byte).extractLsb' 6 2 = f ∧ (f ++ 1#1 ++ l ++ w ++ z ++ a : Byte).getLsbD 5 = true ∧
      (f ++ 1#1 ++ l ++ w ++ z ++ a : Byte).extractLsb' 4 1 = l ∧
      (f ++ 1#1 ++ l ++ w ++ z ++ a : Byte).getLsbD 4 = l.getLsbD 0 ∧
      (f ++ 1#1 ++ l ++ w ++ z ++ a : Byte).extractLsb' 3 1 = w ∧
      (f ++ 1#1 ++ l ++ w ++ z ++ a : Byte).getLsbD 3 = w.getLsbD 0 ∧
      (f ++ 1#1 ++ l ++ w ++ z ++ a : Byte).getLsbD 2 = z.getLsbD 0 ∧
      (f ++ 1#1 ++ l ++ w ++ z ++ a : Byte).extractLsb' 0 2 = a := by
  simp (disch := decide) only [BitVec.extractLsb'_append_eq_of_le, BitVec.extractLsb'_append_eq_right, Nat.reduceSub,
    BitVec.extractLsb'_eq_self, BitVec.getLsbD_append]
  simp

/-- `ff 0 z kkkk`: a bit operation with an immediate bit number. -/
theorem bitImm_fields :
    (f ++ 0#1 ++ z ++ k : Byte).extractLsb' 6 2 = f ∧ (f ++ 0#1 ++ z ++ k : Byte).getLsbD 5 = false ∧
      (f ++ 0#1 ++ z ++ k : Byte).getLsbD 4 = z.getLsbD 0 ∧ (f ++ 0#1 ++ z ++ k : Byte).extractLsb' 0 4 = k := by
  simp (disch := decide) only [BitVec.extractLsb'_append_eq_of_le, BitVec.extractLsb'_append_eq_right, Nat.reduceSub,
    BitVec.extractLsb'_eq_self, BitVec.getLsbD_append]
  simp

/-- `ff 1 zzz aa`: a bit operation with a register; `zzz` is not 000 where one of its three bits is set. -/
theorem bitReg_fields :
    (f ++ 1#1 ++ zero ++ a : Byte).extractLsb' 6 2 = f ∧ (f ++ 1#1 ++ zero ++ a : Byte).getLsbD 5 = true ∧
      (f ++ 1#1 ++ zero ++ a : Byte).extractLsb' 2 3 = zero ∧ (f ++ 1#1 ++ zero ++ a : Byte).extractLsb' 0 2 = a ∧
      ((f ++ 1#1 ++ zero ++ a : Byte).getLsbD 4 = true ∨ (f ++ 1#1 ++ zero ++ a : Byte).getLsbD 3 = true ∨
        (f ++ 1#1 ++ zero ++ a : Byte).getLsbD 2 = true ↔ (zero != 0#3) = true) := by
  rw [threeBits_ne_zero_iff]
  simp (disch := decide) only [BitVec.extractLsb'_append_eq_of_le, BitVec.extractLsb'_append_eq_right, Nat.reduceSub,
    BitVec.extractLsb'_eq_self, BitVec.getLsbD_append]
  simp

end Fields

/-! Codes and names (R20, R82). -/

@[simp] theorem Reg.ofBits_bits (r : Reg) : Reg.ofBits r.bits = r := by cases r <;> rfl
@[simp] theorem Reg.bits_ofBits (b : BitVec 2) : (Reg.ofBits b).bits = b := by revert b; decide
@[simp] theorem Small.ofBits_bits (q : Small) : Small.ofBits q.bits = q := by cases q <;> rfl
@[simp] theorem Small.bits_ofBits (b : BitVec 2) : (Small.ofBits b).bits = b := by revert b; decide
@[simp] theorem DataReg.ofBits_bits (r : DataReg) : DataReg.ofBits r.bits = r := by cases r <;> rfl
@[simp] theorem IndexReg.ofBits_bits (r : IndexReg) : IndexReg.ofBits r.bits = r := by cases r <;> rfl

theorem bit_cases (b : BitVec 1) : b = 0#1 ∨ b = 1#1 := by revert b; decide

theorem twoBits_cases (b : BitVec 2) : b = 0#2 ∨ b = 1#2 ∨ b = 2#2 ∨ b = 3#2 := by revert b; decide

/-- The groups of the register formats (R84, R85). -/
theorem lowGroup_cases {g : BitVec 4} (h : g.toNat < 8) :
    g = 0x0#4 ∨ g = 0x1#4 ∨ g = 0x2#4 ∨ g = 0x3#4 ∨ g = 0x4#4 ∨ g = 0x5#4 ∨ g = 0x6#4 ∨ g = 0x7#4 := by
  revert g; decide

/-- The register formats, and each other group by itself (R84 to R91). -/
theorem group_cases (g : BitVec 4) :
    g.toNat < 8 ∨ g = 0x8#4 ∨ g = 0x9#4 ∨ g = 0xA#4 ∨ g = 0xB#4 ∨ g = 0xC#4 ∨ g = 0xD#4 ∨ g = 0xE#4 ∨ g = 0xF#4 := by
  revert g; decide

/-! What decoding reads from the bytes of each format (R84 to R91). -/

/-- The instruction that stands first in a sequence of bytes, as the encoder says it: it is well formed, and the sequence
begins with its encoding. -/
def Instr.Begins (i : Instr) (bytes : List Byte) : Prop := i.wf = true ∧ encode i <+: bytes

section Formats
variable {g : BitVec 4} {op : BitVec 2} {b0 b1 b2 : Byte} {ra : Reg}

theorem decodeBytes_of_encRR (hg : g.toNat < 8) (h : encRR g op ra.bits <+: [b0, b1, b2]) :
    decodeBytes b0 b1 b2 = decodeRegs g.toNat ra op := by
  obtain ⟨rfl, -⟩ := List.cons_prefix_cons.1 h
  simp only [decodeBytes, opcode_fields, Reg.ofBits_bits]
  rcases lowGroup_cases hg with rfl | rfl | rfl | rfl | rfl | rfl | rfl | rfl <;> rfl

theorem decodeBytes_of_encIND {rc : DataReg} {ri : IndexReg} {post : Bool}
    (h : encIND (if post then 0x9#4 else 0x8#4) op rc ri <+: [b0, b1, b2]) :
    decodeBytes b0 b1 b2 = decodeIndirect post op rc ri := by
  obtain ⟨rfl, -⟩ := List.cons_prefix_cons.1 h
  simp only [decodeBytes, indirect_fields, DataReg.ofBits_bits, IndexReg.ofBits_bits]
  cases post <;> rfl

theorem decodeBytes_of_encStackRel {m : Byte} (h : encByte 0xA#4 op ra m <+: [b0, b1, b2]) :
    decodeBytes b0 b1 b2 = decodeStackRel op ra m := by
  simp only [encByte, List.cons_prefix_cons] at h
  obtain ⟨rfl, rfl, -⟩ := h
  simp only [decodeBytes, opcode_fields, Reg.ofBits_bits]
  rfl

theorem decodeBytes_of_encAbsolute {v : Word} (h : encWord 0xB#4 op ra v <+: [b0, b1, b2]) :
    decodeBytes b0 b1 b2 = decodeAbsolute op ra v := by
  simp only [encWord, List.cons_prefix_cons] at h
  obtain ⟨rfl, rfl, rfl, -⟩ := h
  simp only [decodeBytes, opcode_fields, Reg.ofBits_bits, joinBytes_lo_hi]
  rfl

theorem decodeBytes_of_encImm16 {v : Word} (h : encWord 0xD#4 0#2 ra v <+: [b0, b1, b2]) :
    decodeBytes b0 b1 b2 = .ldwImm ra v := by
  simp only [encWord, List.cons_prefix_cons] at h
  obtain ⟨rfl, rfl, rfl, -⟩ := h
  simp only [decodeBytes, opcode_fields, Reg.ofBits_bits]
  exact congrArg (Instr.ldwImm ra) (joinBytes_lo_hi v)

/-- Group 0xD with one byte after the first: an immediate byte or a descriptor. -/
theorem decodeBytes_of_encImm8 {m : Byte} (h : encByte 0xD#4 op ra m <+: [b0, b1, b2]) :
    decodeBytes b0 b1 b2 = decodeImmediate op ra m b2 := by
  simp only [encByte, List.cons_prefix_cons] at h
  obtain ⟨rfl, rfl, -⟩ := h
  simp only [decodeBytes, opcode_fields, Reg.ofBits_bits]
  rfl

/-- A shift descriptor: group 0xD with `b0[3:2]` = 10. -/
theorem decodeBytes_of_shift {d : Byte} (h : encByte 0xD#4 2#2 ra d <+: [b0, b1, b2]) :
    decodeBytes b0 b1 b2 = decodeShift ra d := decodeBytes_of_encImm8 h

/-- A bit descriptor: group 0xD with `b0[3:2]` = 11. -/
theorem decodeBytes_of_bit {d : Byte} (h : encByte 0xD#4 3#2 ra d <+: [b0, b1, b2]) :
    decodeBytes b0 b1 b2 = decodeBit ra d := decodeBytes_of_encImm8 h

theorem decodeBytes_of_encBranch {cc : BitVec 4} {d : Byte} (h : encBranch cc d <+: [b0, b1, b2]) :
    decodeBytes b0 b1 b2 = decodeBranch cc d := by
  simp only [encBranch, List.cons_prefix_cons] at h
  obtain ⟨rfl, rfl, -⟩ := h
  simp only [decodeBytes, nibble_fields]
  rfl

end Formats

/-- An instruction is read back from its encoding: the constructors by the format that encodes them. Where two registers
select the row, they differ, or the word would be the one-register instruction's (R84). -/
theorem decodeBytes_of_begins {i : Instr} {b0 b1 b2 : Byte} (h : i.Begins [b0, b1, b2]) : decodeBytes b0 b1 b2 = i := by
  obtain ⟨hwf, hp⟩ := h
  cases i with
  | move ra rb | and ra rb | xor ra rb | or ra rb | sub ra rb | cmp ra rb =>
    have hne : ra ≠ rb := by simpa [Instr.wf] using hwf
    rw [decodeBytes_of_encRR (by decide) hp]
    simp [decodeRegs, hne]
  | sxt | test | clr | inv | neg | abs | add | addq =>
    rw [decodeBytes_of_encRR (by decide) hp]
    simp [decodeRegs]
  | ldwInd | ldbInd | stwInd | stbInd => exact decodeBytes_of_encIND (post := false) hp
  | ldwInc | ldbInc | stwInc | stbInc => exact decodeBytes_of_encIND (post := true) hp
  | ldwSp | ldbSp | stwSp | stbSp => exact decodeBytes_of_encStackRel hp
  | ldwAbs | ldbAbs | stwAbs | stbAbs => exact decodeBytes_of_encAbsolute hp
  | buc | bus | bhi | bls | bcc | bcs | bne | beq | bvc | bvs | bpl | bmi | bge | blt | bgt | ble =>
    exact decodeBytes_of_encBranch hp
  | ldwImm => exact decodeBytes_of_encImm16 hp
  | ldbImm => exact decodeBytes_of_encImm8 hp
  | popReg ra | pushReg ra =>
    obtain ⟨rfl, -⟩ := List.cons_prefix_cons.1 hp
    cases ra <;> rfl
  | popPs | nopC5 | ret | reti | pushPs | trap | jsrR0 | moveR0Sp | moveSpR0 | jmpR0 | sqrt | mulu | muls | divu | divs
  | addx | subx | negx | nop =>
    obtain ⟨rfl, -⟩ := List.cons_prefix_cons.1 hp
    rfl
  | andPs | orPs | addSp =>
    simp only [encode, List.cons_prefix_cons] at hp
    obtain ⟨rfl, rfl, -⟩ := hp
    rfl
  | jsrAbs addr | jmpAbs addr =>
    simp only [encode, encAddr, List.cons_prefix_cons] at hp
    obtain ⟨rfl, rfl, rfl, -⟩ := hp
    conv => rhs; rw [← joinBytes_lo_hi addr]
    rfl
  | lslImm | aslImm | rolImm | roxlImm =>
    rw [decodeBytes_of_shift hp]
    simp only [decodeShift, shiftImm_fields]
    rfl
  | lslReg | lsrReg | lslWt | lsrWt | aslReg | asrReg | aslWt | asrWt | rolReg | rorReg | rolWt | rorWt | roxlReg
  | roxrReg | roxlWt | roxrWt | shReserved =>
    rw [decodeBytes_of_shift hp]
    simp only [decodeShift, shiftReg_fields, Reg.ofBits_bits]
    rfl
  | btstImm | bchgImm | bclrImm | bsetImm | bitImmReserved =>
    rw [decodeBytes_of_bit hp]
    simp only [decodeBit, bitImm_fields]
    rfl
  | btstReg | bchgReg | bclrReg | bsetReg =>
    rw [decodeBytes_of_bit hp]
    simp only [decodeBit, bitReg_fields, Reg.ofBits_bits]
    rfl
  | bitRegReserved ra fn zero rp =>
    have hzero : (zero != 0#3) = true := hwf
    rw [decodeBytes_of_bit hp]
    simp only [decodeBit, bitReg_fields, Reg.ofBits_bits, hzero]
    rfl

end Sys2Proof
end

section
/-! SUPPORT. Every three bytes begin with an encoding, so that decoding and encoding are inverse to each other (R92, R96), and
the lengths (R83). -/

namespace Sys2Proof

open Sys2Proof.Machine

/-! Every byte has the form of each format (R81). -/

theorem toNat_append_eq {m n : Nat} (x : BitVec m) (y : BitVec n) : (x ++ y).toNat = 2 ^ n * x.toNat + y.toNat := by
  rw [BitVec.toNat_append, ← Nat.shiftLeft_add_eq_or_of_lt y.isLt, Nat.shiftLeft_eq, Nat.mul_comm]

theorem loByte_joinBytes (lo hi : Byte) : loByte (joinBytes lo hi) = lo := BitVec.extractLsb'_append_eq_right

theorem hiByte_joinBytes (lo hi : Byte) : hiByte (joinBytes lo hi) = hi := BitVec.extractLsb'_append_eq_left

theorem exists_opcode (b : Byte) : ∃ (g : BitVec 4) (op : BitVec 2) (ra : Reg), b = g ++ op ++ ra.bits := by
  refine ⟨b.extractLsb' 4 4, b.extractLsb' 2 2, .ofBits (b.extractLsb' 0 2), ?_⟩
  simp (disch := rfl) only [Reg.bits_ofBits, BitVec.extractLsb'_append_extractLsb'_eq_extractLsb', BitVec.extractLsb'_eq_self]

/-- The bit that tells the two forms of a descriptor apart, as a field (R89). -/
theorem bit5_eq {b : Byte} {v : Bool} (h : b.getLsbD 5 = v) : BitVec.ofBool v = b.extractLsb' 5 1 := by
  ext i hi
  obtain rfl : i = 0 := by omega
  simp [← h]

theorem exists_shiftImm {b : Byte} (h : b.getLsbD 5 = false) : ∃ (fn : BitVec 2) (n : BitVec 5), b = fn ++ 0#1 ++ n := by
  refine ⟨b.extractLsb' 6 2, b.extractLsb' 0 5, ?_⟩
  have h5 : 0#1 = b.extractLsb' 5 1 := bit5_eq h
  simp (disch := rfl) only [h5, BitVec.extractLsb'_append_extractLsb'_eq_extractLsb', BitVec.extractLsb'_eq_self]

theorem exists_shiftReg {b : Byte} (h : b.getLsbD 5 = true) :
    ∃ (fn : BitVec 2) (l w z : BitVec 1) (rp : Reg), b = fn ++ 1#1 ++ l ++ w ++ z ++ rp.bits := by
  refine ⟨b.extractLsb' 6 2, b.extractLsb' 4 1, b.extractLsb' 3 1, b.extractLsb' 2 1, .ofBits (b.extractLsb' 0 2), ?_⟩
  have h5 : 1#1 = b.extractLsb' 5 1 := bit5_eq h
  simp (disch := rfl) only [Reg.bits_ofBits, h5, BitVec.extractLsb'_append_extractLsb'_eq_extractLsb', BitVec.extractLsb'_eq_self]

theorem exists_bitImm {b : Byte} (h : b.getLsbD 5 = false) :
    ∃ (fn : BitVec 2) (z : BitVec 1) (k : BitVec 4), b = fn ++ 0#1 ++ z ++ k := by
  refine ⟨b.extractLsb' 6 2, b.extractLsb' 4 1, b.extractLsb' 0 4, ?_⟩
  have h5 : 0#1 = b.extractLsb' 5 1 := bit5_eq h
  simp (disch := rfl) only [h5, BitVec.extractLsb'_append_extractLsb'_eq_extractLsb', BitVec.extractLsb'_eq_self]

theorem exists_bitReg {b : Byte} (h : b.getLsbD 5 = true) :
    ∃ (fn : BitVec 2) (zero : BitVec 3) (rp : Reg), b = fn ++ 1#1 ++ zero ++ rp.bits := by
  refine ⟨b.extractLsb' 6 2, b.extractLsb' 2 3, .ofBits (b.extractLsb' 0 2), ?_⟩
  have h5 : 1#1 = b.extractLsb' 5 1 := bit5_eq h
  simp (disch := rfl) only [Reg.bits_ofBits, h5, BitVec.extractLsb'_append_extractLsb'_eq_extractLsb', BitVec.extractLsb'_eq_self]

/-! Every three bytes begin with an encoding: the rows of the table that the bits of each group select. -/

/-- RI and RC are the two bits of the register field (R82). -/
theorem exists_indirect (g : BitVec 4) (op : BitVec 2) (ra : Reg) :
    ∃ (ri : IndexReg) (rc : DataReg), (g ++ op ++ ra.bits : Byte) = g ++ op ++ ri.bits ++ rc.bits := by
  obtain ⟨ri, rc, h⟩ : ∃ (ri : IndexReg) (rc : DataReg), ra.bits = ri.bits ++ rc.bits := by
    cases ra
    exacts [⟨.r2, .r0, rfl⟩, ⟨.r2, .r1, rfl⟩, ⟨.r3, .r0, rfl⟩, ⟨.r3, .r1, rfl⟩]
  refine ⟨ri, rc, BitVec.eq_of_toNat_eq ?_⟩
  simp only [h, toNat_append_eq]
  omega

theorem exists_begins_indirect (post : Bool) (op : BitVec 2) (ra : Reg) (b1 b2 : Byte) :
    ∃ i : Instr, i.Begins [(if post then 0x9#4 else 0x8#4) ++ op ++ ra.bits, b1, b2] := by
  obtain ⟨ri, rc, h⟩ := exists_indirect (if post then 0x9#4 else 0x8#4) op ra
  refine ⟨decodeIndirect post op rc ri, h ▸ ?_⟩
  cases post <;> rcases twoBits_cases op with rfl | rfl | rfl | rfl <;> exact ⟨rfl, _, rfl⟩

theorem exists_begins_shift (ra : Reg) (b1 b2 : Byte) : ∃ i : Instr, i.Begins [0xD#4 ++ 2#2 ++ ra.bits, b1, b2] := by
  cases h : b1.getLsbD 5 with
  | false =>
    obtain ⟨fn, n, rfl⟩ := exists_shiftImm h
    rcases twoBits_cases fn with rfl | rfl | rfl | rfl
    exacts [⟨.lslImm ra n, rfl, _, rfl⟩, ⟨.aslImm ra n, rfl, _, rfl⟩, ⟨.rolImm ra n, rfl, _, rfl⟩, ⟨.roxlImm ra n, rfl, _, rfl⟩]
  | true =>
    obtain ⟨fn, l, w, z, rp, rfl⟩ := exists_shiftReg h
    rcases bit_cases z with rfl | rfl
    · rcases twoBits_cases fn with rfl | rfl | rfl | rfl <;> rcases bit_cases l with rfl | rfl <;>
        rcases bit_cases w with rfl | rfl
      exacts [⟨.lslReg ra rp, rfl, _, rfl⟩, ⟨.lslWt ra rp, rfl, _, rfl⟩, ⟨.lsrReg ra rp, rfl, _, rfl⟩,
        ⟨.lsrWt ra rp, rfl, _, rfl⟩, ⟨.aslReg ra rp, rfl, _, rfl⟩, ⟨.aslWt ra rp, rfl, _, rfl⟩,
        ⟨.asrReg ra rp, rfl, _, rfl⟩, ⟨.asrWt ra rp, rfl, _, rfl⟩, ⟨.rolReg ra rp, rfl, _, rfl⟩,
        ⟨.rolWt ra rp, rfl, _, rfl⟩, ⟨.rorReg ra rp, rfl, _, rfl⟩, ⟨.rorWt ra rp, rfl, _, rfl⟩,
        ⟨.roxlReg ra rp, rfl, _, rfl⟩, ⟨.roxlWt ra rp, rfl, _, rfl⟩, ⟨.roxrReg ra rp, rfl, _, rfl⟩,
        ⟨.roxrWt ra rp, rfl, _, rfl⟩]
    · exact ⟨.shReserved ra fn l w rp, rfl, _, rfl⟩

theorem exists_begins_bit (ra : Reg) (b1 b2 : Byte) : ∃ i : Instr, i.Begins [0xD#4 ++ 3#2 ++ ra.bits, b1, b2] := by
  cases h : b1.getLsbD 5 with
  | false =>
    obtain ⟨fn, z, k, rfl⟩ := exists_bitImm h
    rcases bit_cases z with rfl | rfl
    · rcases twoBits_cases fn with rfl | rfl | rfl | rfl
      exacts [⟨.btstImm ra k, rfl, _, rfl⟩, ⟨.bchgImm ra k, rfl, _, rfl⟩, ⟨.bclrImm ra k, rfl, _, rfl⟩,
        ⟨.bsetImm ra k, rfl, _, rfl⟩]
    · exact ⟨.bitImmReserved ra fn k, rfl, _, rfl⟩
  | true =>
    obtain ⟨fn, zero, rp, rfl⟩ := exists_bitReg h
    by_cases hzero : zero = 0#3
    · subst hzero
      rcases twoBits_cases fn with rfl | rfl | rfl | rfl
      exacts [⟨.btstReg ra rp, rfl, _, rfl⟩, ⟨.bchgReg ra rp, rfl, _, rfl⟩, ⟨.bclrReg ra rp, rfl, _, rfl⟩,
        ⟨.bsetReg ra rp, rfl, _, rfl⟩]
    · exact ⟨.bitRegReserved ra fn zero rp, bne_iff_ne.2 hzero, _, rfl⟩

theorem exists_begins_regs {g : BitVec 4} (hg : g.toNat < 8) (op : BitVec 2) (ra : Reg) (b1 b2 : Byte) :
    ∃ i : Instr, i.Begins [g ++ op ++ ra.bits, b1, b2] := by
  obtain ⟨rb, rfl⟩ : ∃ rb : Reg, op = rb.bits := ⟨.ofBits op, (Reg.bits_ofBits op).symm⟩
  obtain ⟨q, hq⟩ : ∃ q : Small, q.bits = rb.bits := ⟨.ofBits rb.bits, Small.bits_ofBits rb.bits⟩
  have haddq : (Instr.addq ra q).Begins [0x5#4 ++ rb.bits ++ ra.bits, b1, b2] := by rw [← hq]; exact ⟨rfl, _, rfl⟩
  by_cases h : ra = rb
  · subst h
    rcases lowGroup_cases hg with rfl | rfl | rfl | rfl | rfl | rfl | rfl | rfl
    exacts [⟨.sxt ra, rfl, _, rfl⟩, ⟨.test ra, rfl, _, rfl⟩, ⟨.clr ra, rfl, _, rfl⟩, ⟨.inv ra, rfl, _, rfl⟩,
      ⟨.add ra ra, rfl, _, rfl⟩, ⟨_, haddq⟩, ⟨.neg ra, rfl, _, rfl⟩, ⟨.abs ra, rfl, _, rfl⟩]
  · have hne : (ra != rb) = true := bne_iff_ne.2 h
    rcases lowGroup_cases hg with rfl | rfl | rfl | rfl | rfl | rfl | rfl | rfl
    exacts [⟨.move ra rb, hne, _, rfl⟩, ⟨.and ra rb, hne, _, rfl⟩, ⟨.xor ra rb, hne, _, rfl⟩, ⟨.or ra rb, hne, _, rfl⟩,
      ⟨.add ra rb, rfl, _, rfl⟩, ⟨_, haddq⟩, ⟨.sub ra rb, hne, _, rfl⟩, ⟨.cmp ra rb, hne, _, rfl⟩]

theorem exists_begins_stack (op : BitVec 2) (ra : Reg) (v : Word) :
    ∃ i : Instr, i.Begins [0xC#4 ++ op ++ ra.bits, loByte v, hiByte v] := by
  rcases twoBits_cases op with rfl | rfl | rfl | rfl
  · exact ⟨.popReg ra, rfl, _, rfl⟩
  · cases ra
    exacts [⟨.popPs, rfl, _, rfl⟩, ⟨.nopC5, rfl, _, rfl⟩, ⟨.ret, rfl, _, rfl⟩, ⟨.reti, rfl, _, rfl⟩]
  · exact ⟨.pushReg ra, rfl, _, rfl⟩
  · cases ra
    exacts [⟨.pushPs, rfl, _, rfl⟩, ⟨.trap, rfl, _, rfl⟩, ⟨.jsrR0, rfl, _, rfl⟩, ⟨.jsrAbs v, rfl, _, rfl⟩]

theorem exists_begins_branch (op : BitVec 2) (ra : Reg) (d b2 : Byte) :
    ∃ i : Instr, i.Begins [0xE#4 ++ op ++ ra.bits, d, b2] := by
  rcases twoBits_cases op with rfl | rfl | rfl | rfl <;> cases ra
  exacts [⟨.buc d, rfl, _, rfl⟩, ⟨.bus d, rfl, _, rfl⟩, ⟨.bhi d, rfl, _, rfl⟩, ⟨.bls d, rfl, _, rfl⟩,
    ⟨.bcc d, rfl, _, rfl⟩, ⟨.bcs d, rfl, _, rfl⟩, ⟨.bne d, rfl, _, rfl⟩, ⟨.beq d, rfl, _, rfl⟩,
    ⟨.bvc d, rfl, _, rfl⟩, ⟨.bvs d, rfl, _, rfl⟩, ⟨.bpl d, rfl, _, rfl⟩, ⟨.bmi d, rfl, _, rfl⟩,
    ⟨.bge d, rfl, _, rfl⟩, ⟨.blt d, rfl, _, rfl⟩, ⟨.bgt d, rfl, _, rfl⟩, ⟨.ble d, rfl, _, rfl⟩]

theorem exists_begins_misc (op : BitVec 2) (ra : Reg) (v : Word) :
    ∃ i : Instr, i.Begins [0xF#4 ++ op ++ ra.bits, loByte v, hiByte v] := by
  rcases twoBits_cases op with rfl | rfl | rfl | rfl <;> cases ra
  exacts [⟨.moveR0Sp, rfl, _, rfl⟩, ⟨.moveSpR0, rfl, _, rfl⟩, ⟨.jmpR0, rfl, _, rfl⟩, ⟨.jmpAbs v, rfl, _, rfl⟩,
    ⟨.andPs (loByte v), rfl, _, rfl⟩, ⟨.orPs (loByte v), rfl, _, rfl⟩, ⟨.addSp (loByte v), rfl, _, rfl⟩,
    ⟨.sqrt, rfl, _, rfl⟩, ⟨.mulu, rfl, _, rfl⟩, ⟨.muls, rfl, _, rfl⟩, ⟨.divu, rfl, _, rfl⟩, ⟨.divs, rfl, _, rfl⟩,
    ⟨.addx, rfl, _, rfl⟩, ⟨.subx, rfl, _, rfl⟩, ⟨.negx, rfl, _, rfl⟩, ⟨.nop, rfl, _, rfl⟩]

theorem exists_begins (b0 b1 b2 : Byte) : ∃ i : Instr, i.Begins [b0, b1, b2] := by
  obtain ⟨g, op, ra, rfl⟩ := exists_opcode b0
  obtain ⟨v, rfl, rfl⟩ : ∃ v, b1 = loByte v ∧ b2 = hiByte v :=
    ⟨joinBytes b1 b2, (loByte_joinBytes b1 b2).symm, (hiByte_joinBytes b1 b2).symm⟩
  rcases group_cases g with hg | rfl | rfl | rfl | rfl | rfl | rfl | rfl | rfl
  · exact exists_begins_regs hg op ra _ _
  · exact exists_begins_indirect false op ra _ _
  · exact exists_begins_indirect true op ra _ _
  · rcases twoBits_cases op with rfl | rfl | rfl | rfl
    exacts [⟨.ldwSp ra (loByte v), rfl, _, rfl⟩, ⟨.ldbSp ra (loByte v), rfl, _, rfl⟩,
      ⟨.stwSp ra (loByte v), rfl, _, rfl⟩, ⟨.stbSp ra (loByte v), rfl, _, rfl⟩]
  · rcases twoBits_cases op with rfl | rfl | rfl | rfl
    exacts [⟨.ldwAbs ra v, rfl, _, rfl⟩, ⟨.ldbAbs ra v, rfl, _, rfl⟩, ⟨.stwAbs ra v, rfl, _, rfl⟩, ⟨.stbAbs ra v, rfl, _, rfl⟩]
  · exact exists_begins_stack op ra v
  · rcases twoBits_cases op with rfl | rfl | rfl | rfl
    exacts [⟨.ldwImm ra v, rfl, _, rfl⟩, ⟨.ldbImm ra (loByte v), rfl, _, rfl⟩, exists_begins_shift ra _ _,
      exists_begins_bit ra _ _]
  · exact exists_begins_branch op ra _ _
  · exact exists_begins_misc op ra v

theorem decodeBytes_begins (b0 b1 b2 : Byte) : (decodeBytes b0 b1 b2).Begins [b0, b1, b2] := by
  obtain ⟨i, hi⟩ := exists_begins b0 b1 b2
  rwa [decodeBytes_of_begins hi]

/-- Decoding and encoding agree (R92, R96): the instruction read from three bytes is the one that begins them. -/
theorem decodeBytes_eq_iff {b0 b1 b2 : Byte} {i : Instr} : decodeBytes b0 b1 b2 = i ↔ i.Begins [b0, b1, b2] :=
  ⟨fun h => h ▸ decodeBytes_begins b0 b1 b2, decodeBytes_of_begins⟩

/-! Lengths (R80, R83). -/

open Laws.EncodedLength in
/-- The model's law of encoded lengths, for every instruction. -/
theorem encodedLength (i : Instr) : Statement i :=
  Instr.casesOn i move sxt Laws.EncodedLength.and test Laws.EncodedLength.xor clr Laws.EncodedLength.or inv add addq sub
    neg cmp abs ldwInd ldbInd stwInd stbInd ldwInc ldbInc stwInc stbInc ldwSp ldbSp stwSp stbSp ldwAbs ldbAbs stwAbs stbAbs
    popReg popPs nopC5 ret reti pushReg pushPs trap jsrR0 jsrAbs ldwImm ldbImm lslImm lslReg lsrReg lslWt lsrWt
    aslImm aslReg asrReg aslWt asrWt rolImm rolReg rorReg rolWt rorWt roxlImm roxlReg roxrReg roxlWt roxrWt shReserved
    btstImm btstReg bchgImm bchgReg bclrImm bclrReg bsetImm bsetReg bitImmReserved bitRegReserved
    buc bus bhi bls bcc bcs bne beq bvc bvs bpl bmi bge blt bgt ble moveR0Sp moveSpR0 jmpR0 jmpAbs andPs orPs addSp
    sqrt mulu muls divu divs addx subx negx nop

theorem lengthOfFirstByte_bounds (b0 : Byte) : 1 ≤ lengthOfFirstByte b0 ∧ lengthOfFirstByte b0 ≤ 3 := by
  unfold lengthOfFirstByte
  dsimp only
  repeat' split
  all_goals decide

theorem length_encode_bounds (i : Instr) : 1 ≤ (encode i).length ∧ (encode i).length ≤ 3 := by
  obtain ⟨hlen, hfirst⟩ := encodedLength i
  rw [hlen, ← hfirst]
  exact lengthOfFirstByte_bounds _

/-- The first byte of an encoding alone tells its length, whatever follows. -/
theorem lengthOfFirstByte_encode (i : Instr) {bytes : List Byte} (h : encode i <+: bytes) :
    lengthOfFirstByte (bytes.getD 0 0#8) = (encode i).length := by
  obtain ⟨rest, rfl⟩ := h
  obtain ⟨hlen, hfirst⟩ := encodedLength i
  rw [List.getD_append _ _ _ _ (length_encode_bounds i).1, hfirst, hlen]

/-- Decoding answers wherever the bytes are as many as the first one asks for; the instruction is that of the first three. -/
theorem decode_eq_ok {bytes : List Byte} (h : lengthOfFirstByte (bytes.getD 0 0#8) ≤ bytes.length) :
    decode bytes = .ok (decodeBytes (bytes.getD 0 0#8) (bytes.getD 1 0#8) (bytes.getD 2 0#8),
      bytes.drop (lengthOfFirstByte (bytes.getD 0 0#8))) := by
  cases bytes with
  | nil => exact absurd (lengthOfFirstByte_bounds _).1 (by simpa using h)
  | cons b0 rest => exact if_neg h.not_gt

theorem decode_three (b0 b1 b2 : Byte) :
    decode [b0, b1, b2] = .ok (decodeBytes b0 b1 b2, [b0, b1, b2].drop (lengthOfFirstByte b0)) :=
  decode_eq_ok (lengthOfFirstByte_bounds b0).2

/-- What is at most three bytes long is looked at in full when its first three bytes are. -/
theorem prefix_getD_append {l rest : List Byte} (h : l.length ≤ 3) :
    l <+: [(l ++ rest).getD 0 0#8, (l ++ rest).getD 1 0#8, (l ++ rest).getD 2 0#8] := by
  match l, h with
  | [], _ | [_], _ | [_, _], _ | [_, _, _], _ => exact ⟨_, rfl⟩

/-! The statements. -/

/-- Settles O13: the encoding begins the three bytes that decoding looks at, and its first byte tells its length. -/
theorem decodeEncode : Obligations.DecodeEncode := by
  intro i rest hwf
  have hlen := lengthOfFirstByte_encode i (List.prefix_append (encode i) rest)
  have hi : i.Begins _ := ⟨hwf, prefix_getD_append (rest := rest) (length_encode_bounds i).2⟩
  rw [decode_eq_ok (by rw [hlen, List.length_append]; omega), hlen, decodeBytes_of_begins hi, List.drop_left]

/-- Settles O14: the instruction read begins the bytes, and the first byte tells how many of them are its encoding. -/
theorem encodeDecode : Obligations.EncodeDecode := by
  intro b0 b1 b2
  obtain ⟨hwf, hp⟩ := decodeBytes_begins b0 b1 b2
  have hlen := lengthOfFirstByte_encode _ hp
  exact ⟨hwf, hlen ▸ List.prefix_iff_eq_take.1 hp⟩

theorem decodeBytes_len (b0 b1 b2 : Byte) : (decodeBytes b0 b1 b2).len = lengthOfFirstByte b0 := by
  obtain ⟨-, hp⟩ := decodeBytes_begins b0 b1 b2
  rw [← (encodedLength _).1]
  exact (lengthOfFirstByte_encode _ hp).symm

/-- Settles O15: the length is that of the first byte, and each row of the table picks one branch of that. -/
theorem lengthFromFirstByte : Obligations.LengthFromFirstByte := by
  intro b0 b1 b2
  rw [decodeBytes_len]
  and_intros
  all_goals
    intro h
    simp (disch := omega) only [lengthOfFirstByte, if_pos, if_neg]

theorem decode_of_encode {i : Instr} {bytes : List Byte} (hwf : i.wf = true) (h : encode i = bytes) :
    decode bytes = .ok (i, []) := by
  rw [← h, ← List.append_nil (encode i), decodeEncode i [] hwf]

/-- Settles O16: each word is the encoding of the instruction printed beside it. -/
theorem sampleWords : Obligations.SampleWords := by
  unfold Obligations.SampleWords
  and_intros
  all_goals exact decode_of_encode rfl rfl

end Sys2Proof
end

section
/-! SUPPORT. The reserved second bytes and what is refused (R94, R184, R192), and the step that runs what the bytes at the pc
decode to (R96, R245). -/

namespace Sys2Proof

open Sys2Proof.Machine

/-! The bytes of the reserved patterns (R94). -/

/-- A first byte with given upper six bits, as a range of numbers. -/
theorem opcode_iff (b0 : Byte) (g : BitVec 4) (op : BitVec 2) :
    (∃ ra : Reg, b0 = g ++ op ++ ra.bits) ↔
      16 * g.toNat + 4 * op.toNat ≤ b0.toNat ∧ b0.toNat ≤ 16 * g.toNat + 4 * op.toNat + 3 := by
  constructor
  · rintro ⟨ra, rfl⟩
    have hra := ra.bits.isLt
    simp only [toNat_append_eq]
    omega
  · intro h
    obtain ⟨g', op', ra, rfl⟩ := exists_opcode b0
    have hra := ra.bits.isLt
    simp only [toNat_append_eq] at h
    obtain rfl : g' = g := BitVec.eq_of_toNat_eq (by omega)
    obtain rfl : op' = op := BitVec.eq_of_toNat_eq (by omega)
    exact ⟨ra, rfl⟩

/-- The first bytes of the shift descriptors (R89). -/
theorem shift_opcode_iff (b0 : Byte) :
    (∃ ra : Reg, b0 = 0xD#4 ++ 2#2 ++ ra.bits) ↔ 0xD8 ≤ b0.toNat ∧ b0.toNat ≤ 0xDB := opcode_iff b0 0xD#4 2#2

/-- The first bytes of the bit descriptors (R89). -/
theorem bit_opcode_iff (b0 : Byte) :
    (∃ ra : Reg, b0 = 0xD#4 ++ 3#2 ++ ra.bits) ↔ 0xDC ≤ b0.toNat ∧ b0.toNat ≤ 0xDF := opcode_iff b0 0xD#4 3#2

theorem getLsbD_zero_iff (z : BitVec 1) : z.getLsbD 0 = true ↔ z = 1#1 := by revert z; decide

theorem decodeBytes_shReserved_iff {b0 b1 b2 : Byte} :
    (∃ ra fn lr w rp, decodeBytes b0 b1 b2 = .shReserved ra fn lr w rp) ↔
      0xD8 ≤ b0.toNat ∧ b0.toNat ≤ 0xDB ∧ b1.getLsbD 5 = true ∧ b1.getLsbD 2 = true := by
  simp only [decodeBytes_eq_iff, ← and_assoc (a := 0xD8 ≤ b0.toNat), ← shift_opcode_iff]
  constructor
  · rintro ⟨ra, fn, l, w, rp, -, hp⟩
    simp only [encode, encShiftReg, List.cons_prefix_cons] at hp
    obtain ⟨rfl, rfl, -⟩ := hp
    obtain ⟨-, h5, -, -, -, -, h2, -⟩ := shiftReg_fields fn rp.bits l w 1#1
    exact ⟨⟨ra, rfl⟩, h5, h2⟩
  · rintro ⟨⟨ra, rfl⟩, h5, h2⟩
    obtain ⟨fn, l, w, z, rp, rfl⟩ := exists_shiftReg h5
    simp only [shiftReg_fields, getLsbD_zero_iff] at h2
    subst h2
    exact ⟨ra, fn, l, w, rp, rfl, _, rfl⟩

theorem decodeBytes_bitImmReserved_iff {b0 b1 b2 : Byte} :
    (∃ ra fn k, decodeBytes b0 b1 b2 = .bitImmReserved ra fn k) ↔
      0xDC ≤ b0.toNat ∧ b0.toNat ≤ 0xDF ∧ b1.getLsbD 5 = false ∧ b1.getLsbD 4 = true := by
  simp only [decodeBytes_eq_iff, ← and_assoc (a := 0xDC ≤ b0.toNat), ← bit_opcode_iff]
  constructor
  · rintro ⟨ra, fn, k, -, hp⟩
    simp only [encode, encBitImm, List.cons_prefix_cons] at hp
    obtain ⟨rfl, rfl, -⟩ := hp
    obtain ⟨-, h5, h4, -⟩ := bitImm_fields k fn 1#1
    exact ⟨⟨ra, rfl⟩, h5, h4⟩
  · rintro ⟨⟨ra, rfl⟩, h5, h4⟩
    obtain ⟨fn, z, k, rfl⟩ := exists_bitImm h5
    simp only [bitImm_fields, getLsbD_zero_iff] at h4
    subst h4
    exact ⟨ra, fn, k, rfl, _, rfl⟩

/-- Here well-formedness counts: a register form with `b1[4:2]` = 000 is not reserved. -/
theorem decodeBytes_bitRegReserved_iff {b0 b1 b2 : Byte} :
    (∃ ra fn zero rp, decodeBytes b0 b1 b2 = .bitRegReserved ra fn zero rp) ↔
      0xDC ≤ b0.toNat ∧ b0.toNat ≤ 0xDF ∧ b1.getLsbD 5 = true ∧
        (b1.getLsbD 4 = true ∨ b1.getLsbD 3 = true ∨ b1.getLsbD 2 = true) := by
  simp only [decodeBytes_eq_iff, ← and_assoc (a := 0xDC ≤ b0.toNat), ← bit_opcode_iff]
  constructor
  · rintro ⟨ra, fn, zero, rp, hwf, hp⟩
    simp only [encode, encBitReg, List.cons_prefix_cons] at hp
    obtain ⟨rfl, rfl, -⟩ := hp
    obtain ⟨-, h5, -, -, hbits⟩ := bitReg_fields fn rp.bits zero
    exact ⟨⟨ra, rfl⟩, h5, hbits.2 hwf⟩
  · rintro ⟨⟨ra, rfl⟩, h5, hzero⟩
    obtain ⟨fn, zero, rp, rfl⟩ := exists_bitReg h5
    simp only [bitReg_fields] at hzero
    exact ⟨ra, fn, zero, rp, hzero, _, rfl⟩

/-! What is refused (R94). -/

/-- Only the reserved instructions are refused, each under its own name. -/
theorem exec_refused_iff {i : Instr} {s : State} {r : Refusal} :
    exec i s = .refused r ↔
      (r = .shReserved ∧ ∃ ra fn lr w rp, i = .shReserved ra fn lr w rp) ∨
        (r = .bitImmReserved ∧ ∃ ra fn k, i = .bitImmReserved ra fn k) ∨
        (r = .bitRegReserved ∧ ∃ ra fn zero rp, i = .bitRegReserved ra fn zero rp) := by
  constructor
  · intro h
    cases i with
    | shReserved ra fn lr w rp => cases h; exact .inl ⟨rfl, ra, fn, lr, w, rp, rfl⟩
    | bitImmReserved ra fn k => cases h; exact .inr (.inl ⟨rfl, ra, fn, k, rfl⟩)
    | bitRegReserved ra fn zero rp => cases h; exact .inr (.inr ⟨rfl, ra, fn, zero, rp, rfl⟩)
    | abs => simp only [exec, execAbs] at h; split at h <;> cases h
    | divu => simp only [exec, execDivu] at h; split at h <;> cases h
    | divs => simp only [exec, execDivs] at h; split at h <;> cases h
    | _ => cases h
  · rintro (⟨rfl, ra, fn, lr, w, rp, rfl⟩ | ⟨rfl, ra, fn, k, rfl⟩ | ⟨rfl, ra, fn, zero, rp, rfl⟩) <;> rfl

/-- No instruction faults, so one that is not refused has a next state. -/
theorem exec_next_or_refused (i : Instr) (s : State) :
    (∃ t, exec i s = .next t) ∨ exec i s = .refused .shReserved ∨ exec i s = .refused .bitImmReserved ∨
      exec i s = .refused .bitRegReserved := by
  cases h : exec i s with
  | next t => exact .inl ⟨t, rfl⟩
  | fault f => cases f
  | refused r =>
    rcases exec_refused_iff.1 h with ⟨rfl, -⟩ | ⟨rfl, -⟩ | ⟨rfl, -⟩
    · exact .inr (.inl rfl)
    · exact .inr (.inr (.inl rfl))
    · exact .inr (.inr (.inr rfl))

/-! The instruction that a step runs (R96, R245). -/

/-- With no reset waiting and no enabled request, the instruction at the pc runs. -/
theorem step_runs {s : State} (h : s.boundary = .quiet ∨ (s.boundary = .irq ∧ s.flag .i = false)) :
    step s = endStep (exec s.fetched s.passBoundary) := by
  rcases h with hb | ⟨hb, hi⟩
  · simp [step, State.interrupted, hb]
  · simp [step, State.interrupted, hb, hi]

/-! The statements. -/

/-- Settles O10: a reserved instruction is read exactly where its own encodings stand, and only those are refused. -/
theorem reservedSecondBytesRefused : Obligations.ReservedSecondBytesRefused := by
  intro s b0 b1 b2
  rw [← decodeBytes_shReserved_iff (b2 := b2), ← decodeBytes_bitImmReserved_iff (b2 := b2),
    ← decodeBytes_bitRegReserved_iff (b2 := b2)]
  refine ⟨?_, ?_, ?_, exec_next_or_refused _ s⟩
  all_goals simp only [exec_refused_iff, reduceCtorEq, true_and, false_and, or_false, false_or]

/-- Settles O4: decoding the three bytes at the pc gives the fetched instruction. -/
theorem stepRunsDecodedInstruction : Obligations.StepRunsDecodedInstruction := by
  intro s i rest hb hdecode
  rw [decode_three] at hdecode
  obtain ⟨rfl, -⟩ : s.fetched = i ∧ _ := by simpa [State.fetched] using hdecode
  refine ⟨fun t ht => ?_, fun e he => ?_, rfl⟩
  · rw [step_runs hb, ht]; rfl
  · rw [step_runs hb, he]; rfl

end Sys2Proof
end

section
/-! SUPPORT. What the statements of every instruction family share: a one-byte encoding as a number (R81, R83), N and Z of a
value (R14), and the pc of the next instruction (R24). -/

namespace Sys2Proof.Machine

/-! One-byte encodings. -/

/-- Formats RR and Q as a number: `gggg bb aa` (R81). -/
theorem encRR_eq_ofNat (g : BitVec 4) (b a : BitVec 2) :
    encRR g b a = [BitVec.ofNat 8 (16 * g.toNat + 4 * b.toNat + a.toNat)] := by
  have hbyte : (g ++ b ++ a).toNat = 16 * g.toNat + 4 * b.toNat + a.toNat := by
    simp only [toNat_append_eq]; omega
  rw [encRR, ← hbyte, BitVec.ofNat_toNat, BitVec.setWidth_eq]

/-- What is encoded as one byte is decoded from it, whatever follows, and is one byte long. -/
theorem oneByte_of_encode {s : State} {i : Instr} {b0 cycles : Nat} (hwf : i.wf = true)
    (henc : encode i = [BitVec.ofNat 8 b0]) (hcycles : s.cycles i = some cycles) : OneByte s i b0 cycles := by
  have hlen : i.len = 1 := by rw [← (encodedLength i).1, henc]; rfl
  exact ⟨fun b1 b2 => decodeBytes_of_begins ⟨hwf, henc ▸ List.prefix_append _ [b1, b2]⟩, hlen, hcycles⟩

theorem oneByte_of_encRR {s : State} {i : Instr} {g : BitVec 4} {b a : BitVec 2} {b0 cycles : Nat} (hwf : i.wf = true)
    (henc : encode i = encRR g b a) (hb0 : b0 = 16 * g.toNat + 4 * b.toNat + a.toNat)
    (hcycles : s.cycles i = some cycles) : OneByte s i b0 cycles :=
  oneByte_of_encode hwf (by rw [henc, encRR_eq_ofNat, hb0]) hcycles

/-- The words with two equal registers, which are the one-register instructions (R84). -/
theorem oneByte_of_encRR_self {s : State} {i : Instr} {g : BitVec 4} {a : BitVec 2} {b0 cycles : Nat} (hwf : i.wf = true)
    (henc : encode i = encRR g a a) (hb0 : b0 = 16 * g.toNat + 5 * a.toNat) (hcycles : s.cycles i = some cycles) :
    OneByte s i b0 cycles :=
  oneByte_of_encRR hwf henc (by omega) hcycles

/-! Flags of a value, and the next instruction. -/

theorem word_beq_zero (v : Word) : (v == 0#16) = decide (v.toNat = 0) := by
  rw [beq_eq_decide]
  exact decide_eq_decide.2 BitVec.toNat_eq

theorem nzOf_of_flags {t : State} {v : Word} (hn : t.flag .n = v.msb) (hz : t.flag .z = (v == 0#16)) : NZOf t v :=
  ⟨hn.trans (BitVec.msb_eq_decide v), hz.trans (word_beq_zero v)⟩

theorem logicFlagsOf_of_ps {s t : State} {v : Word} (h : t.ps = PS.logic s.ps v) : LogicFlagsOf t v := by
  have hflag (f : Flag) : t.flag f = PS.get (PS.logic s.ps v) f := by rw [State.flag, h]
  simp only [PS.get_logic] at hflag
  exact ⟨nzOf_of_flags (hflag .n) (hflag .z), hflag .v, hflag .c⟩

theorem fallsThrough_of_pc {s t : State} {len : Nat} (h : t.pc = s.nextPc len) : FallsThrough s t len := by
  simp [FallsThrough, h, State.nextPc]

end Sys2Proof.Machine
end

section
/-! SUPPORT. Register move and logical instructions (R110 to R117): they share the ending of `State.logicResult`, but for
TEST, which writes no register. -/

namespace Sys2Proof.Machine

/-! The shared ending (R110). -/

theorem logicWritten_of_frame {s t : State} {ra : Reg} {len : Nat}
    (hframe : Frame s t ⟨[ra], [.n, .z, .v, .c], [], false⟩) (hps : t.ps = PS.logic s.ps (t.reg ra))
    (hpc : t.pc = s.nextPc len) : LogicWritten s t ra len :=
  ⟨logicFlagsOf_of_ps hps, fallsThrough_of_pc hpc, hframe.onlyRegsAndFlags⟩

section Result
variable (s : State) (ra : Reg) (v : Word) (len : Nat)

@[simp] theorem State.logicResult_reg_self : (s.logicResult ra v len).reg ra = v := by simp [State.logicResult]

theorem State.logicResult_pc : (s.logicResult ra v len).pc = s.nextPc len := by
  simp [State.logicResult, State.nextPc]

theorem State.logicResult_logicWritten : LogicWritten s (s.logicResult ra v len) ra len :=
  logicWritten_of_frame (s.logicResult_frame ra v len) (by rw [s.logicResult_reg_self]; rfl) (s.logicResult_pc ra v len)

/-- TEST has the ending without the write (R114). -/
theorem State.test_logicWritten : LogicWritten s ((s.setPs (PS.logic s.ps (s.reg ra))).advance 1) ra 1 :=
  logicWritten_of_frame (((Frame.refl s _).setPs (PS.logic_keptBut _ _)).advance 1) rfl rfl

end Result

/-! Sign extension (R10). -/

/-- Extending a byte adds eight copies of its bit 7. -/
theorem sext8_toNat (b : Byte) : (sext8 b).toNat = b.toNat + 256 * (if b.getLsbD 7 then 255 else 0) := by
  rw [sext8, BitVec.toNat_signExtend, BitVec.toNat_setWidth_of_le (by decide), BitVec.msb_eq_getLsbD_last]
  split <;> rfl

theorem loByte_getLsbD_seven (v : Word) : (loByte v).getLsbD 7 = v.getLsbD 7 := by simp [loByte]

/-- The sign-extended low byte (R112): that byte, under the copies of its bit 7. -/
theorem sext8_loByte_toNat (v : Word) :
    (sext8 (loByte v)).toNat % 256 = v.toNat % 256 ∧
      (sext8 (loByte v)).toNat / 256 = if v.getLsbD 7 then 255 else 0 := by
  rw [sext8_toNat, loByte_toNat, loByte_getLsbD_seven]
  omega

/-! The statements. -/

/-- Settles O19: the four results and CLR's, each with the ending of `State.logicResult`. -/
theorem moveAndXorOr : Obligations.MoveAndXorOr := by
  intro s ra rb
  refine ⟨fun hne => ?_, oneByte_of_encRR_self rfl rfl rfl rfl, ?_⟩
  · have hwf : (ra != rb) = true := bne_iff_ne.2 hne
    refine ⟨oneByte_of_encRR hwf rfl rfl rfl, oneByte_of_encRR hwf rfl rfl rfl, oneByte_of_encRR hwf rfl rfl rfl,
      oneByte_of_encRR hwf rfl rfl rfl, ?move, ?and, ?xor, ?or⟩
    case move => exact ⟨_, rfl, s.logicResult_reg_self .., s.logicResult_logicWritten ..⟩
    case and =>
      refine ⟨_, rfl, fun k _ => ?_, s.logicResult_logicWritten ..⟩
      rw [s.logicResult_reg_self, BitVec.getLsbD_and]
    case xor =>
      refine ⟨_, rfl, fun k _ => ?_, s.logicResult_logicWritten ..⟩
      rw [s.logicResult_reg_self, BitVec.getLsbD_xor, Bool.bne_eq_xor]
    case or =>
      refine ⟨_, rfl, fun k _ => ?_, s.logicResult_logicWritten ..⟩
      rw [s.logicResult_reg_self, BitVec.getLsbD_or]
  · refine ⟨_, rfl, ?_, s.logicResult_logicWritten ..⟩
    rw [s.logicResult_reg_self, BitVec.xor_self]

/-- Settles O20: the sign extension as arithmetic, the register kept, and the complement as a difference. -/
theorem sxtTestInv : Obligations.SxtTestInv := by
  intro s ra
  refine ⟨oneByte_of_encRR_self rfl rfl rfl rfl, ?sxt, oneByte_of_encRR_self rfl rfl rfl rfl, ?test,
    oneByte_of_encRR_self rfl rfl rfl rfl, ?inv⟩
  case sxt =>
    obtain ⟨hlow, hhigh⟩ := sext8_loByte_toNat (s.reg ra)
    refine ⟨_, rfl, ?_, ?_, s.logicResult_logicWritten ..⟩
    · rw [s.logicResult_reg_self, hlow]
    · rw [s.logicResult_reg_self, hhigh]
  case test => exact ⟨_, rfl, rfl, s.test_logicWritten ra⟩
  case inv =>
    refine ⟨_, rfl, ?_, s.logicResult_logicWritten ..⟩
    rw [s.logicResult_reg_self, BitVec.toNat_not]

end Sys2Proof.Machine
end

section
/-! SUPPORT. Integer add, subtract and compare (R120 to R131): the endings of `State.arithResult` and of
`State.extendedResult`, one rule for each instruction on exact integers, and what two of them give together. -/

namespace Sys2Proof.Machine

/-! Signed values. -/

/-- The signed value of a word, by its unsigned value (R10). -/
theorem word_toInt (v : Word) : v.toInt = if v.toNat < 32768 then (v.toNat : Int) else v.toNat - 65536 := by
  rw [BitVec.toInt_eq_toNat_cond]
  split <;> split <;> omega

/-- The constant of ADDQ as an unsigned 16-bit value (R122). -/
theorem smallValue_toNat (q : Small) :
    ((smallValue q).toNat : Int) = if 0 < smallInt q then smallInt q else 65536 + smallInt q := by
  cases q <;> rfl

theorem smallValue_toInt (q : Small) : (smallValue q).toInt = smallInt q := by cases q <;> rfl

/-! The flags of an addition or subtraction in a state. -/

section Results
variable (s : State) (ra : Reg) (r : ArithResult)

@[simp] theorem State.arithResult_reg_self : (s.arithResult ra r).reg ra = r.r := by simp [State.arithResult]

theorem State.arithResult_flag (f : Flag) : (s.arithResult ra r).flag f = PS.get (PS.arith s.ps r) f := rfl

@[simp] theorem State.arithResult_flag_c : (s.arithResult ra r).flag .c = r.c := by
  rw [s.arithResult_flag, PS.get_arith]

@[simp] theorem State.arithResult_flag_v : (s.arithResult ra r).flag .v = r.v := by
  rw [s.arithResult_flag, PS.get_arith]

theorem State.arithResult_pc : (s.arithResult ra r).pc = s.nextPc 1 := by simp [State.arithResult, State.nextPc]

/-- The shared ending beside C and V (R120, R121). -/
theorem State.arithResult_arithWritten : ArithWritten s (s.arithResult ra r) ra := by
  have hflag (f : Flag) := (s.arithResult_flag ra r f).trans (PS.get_arith s.ps r f)
  refine ⟨?_, (hflag .x).trans (hflag .c).symm, fallsThrough_of_pc (s.arithResult_pc ra r),
    (s.arithResult_frame ra r).onlyRegsAndFlags⟩
  rw [s.arithResult_reg_self]
  exact nzOf_of_flags (hflag .n) (hflag .z)

@[simp] theorem State.extendedResult_reg : (s.extendedResult r).reg .r0 = r.r := by simp [State.extendedResult]

theorem State.extendedResult_flag (f : Flag) : (s.extendedResult r).flag f = PS.get (PS.extended s.ps r) f := rfl

@[simp] theorem State.extendedResult_flag_c : (s.extendedResult r).flag .c = r.c := by
  rw [s.extendedResult_flag, PS.get_extended]

@[simp] theorem State.extendedResult_flag_v : (s.extendedResult r).flag .v = r.v := by
  rw [s.extendedResult_flag, PS.get_extended]

theorem State.extendedResult_pc : (s.extendedResult r).pc = s.nextPc 1 := by simp [State.extendedResult, State.nextPc]

/-- The ending of the extended forms beside C and V, with the sticky Z (R126). -/
theorem State.extendedResult_extendedWritten : ExtendedWritten s (s.extendedResult r) := by
  have hflag (f : Flag) := (s.extendedResult_flag r f).trans (PS.get_extended s.ps r f)
  refine ⟨?_, ?_, (hflag .x).trans (hflag .c).symm, fallsThrough_of_pc (s.extendedResult_pc r),
    (s.extendedResult_frame r).onlyRegsAndFlags⟩
  · rw [s.extendedResult_reg]; exact (hflag .n).trans (BitVec.msb_eq_decide _)
  · rw [s.extendedResult_reg, ← word_beq_zero]; exact hflag .z

end Results

/-! One rule for each instruction. -/

section Instructions
variable (s : State) (ra rb : Reg)

theorem exec_add : ∃ t, exec (.add ra rb) s = .next t ∧
    (t.reg ra).toNat = ((s.reg ra).toNat + (s.reg rb).toNat) % 65536 ∧
    (t.flag .c = true ↔ 65536 ≤ (s.reg ra).toNat + (s.reg rb).toNat) ∧
    (t.flag .v = true ↔ SignedOverflow ((s.reg ra).toInt + (s.reg rb).toInt)) ∧ ArithWritten s t ra := by
  obtain ⟨hr, hc, hv⟩ := add16_spec (s.reg ra) (s.reg rb) false
  refine ⟨_, rfl, ?_, ?_, ?_, s.arithResult_arithWritten ..⟩
  · simpa using hr
  · simpa using hc
  · simpa [SignedOverflow] using hv

theorem exec_addq (q : Small) : ∃ t, exec (.addq ra q) s = .next t ∧
    ((t.reg ra).toNat : Int) = ((s.reg ra).toNat + smallInt q) % 65536 ∧
    (t.flag .c = true ↔
      if 0 < smallInt q then 65536 ≤ (s.reg ra).toNat + smallInt q else 0 ≤ (s.reg ra).toNat + smallInt q) ∧
    (t.flag .v = true ↔ SignedOverflow ((s.reg ra).toInt + smallInt q)) ∧ ArithWritten s t ra := by
  obtain ⟨hr, hc, hv⟩ := add16_spec (s.reg ra) (smallValue q) false
  have hq := smallValue_toNat q
  refine ⟨_, rfl, ?_, ?_, ?_, s.arithResult_arithWritten ..⟩
  · rw [s.arithResult_reg_self, hr, Bool.toNat_false]; omega
  · rw [s.arithResult_flag_c, hc, Bool.toNat_false]; split <;> omega
  · simpa [SignedOverflow, smallValue_toInt] using hv

theorem exec_sub : ∃ t, exec (.sub ra rb) s = .next t ∧
    ((t.reg ra).toNat : Int) = ((s.reg ra).toNat - (s.reg rb).toNat : Int) % 65536 ∧
    (t.flag .c = true ↔ (s.reg ra).toNat < (s.reg rb).toNat) ∧
    (t.flag .v = true ↔ SignedOverflow ((s.reg ra).toInt - (s.reg rb).toInt)) ∧ ArithWritten s t ra := by
  obtain ⟨hr, hc, hv⟩ := sub16_spec (s.reg ra) (s.reg rb) false
  refine ⟨_, rfl, ?_, ?_, ?_, s.arithResult_arithWritten ..⟩
  · simpa using hr
  · simpa using hc
  · simpa [SignedOverflow] using hv

/-- CMP has the flags of SUB, and writes neither a register nor X (R125). -/
theorem exec_cmp : ∃ t, exec (.cmp ra rb) s = .next t ∧
    (t.flag .n = true ↔ 32768 ≤ ((s.reg ra).toNat - (s.reg rb).toNat : Int) % 65536) ∧
    (t.flag .z = true ↔ s.reg ra = s.reg rb) ∧
    (t.flag .c = true ↔ (s.reg ra).toNat < (s.reg rb).toNat) ∧
    (t.flag .v = true ↔ SignedOverflow ((s.reg ra).toInt - (s.reg rb).toInt)) ∧
    FallsThrough s t 1 ∧ OnlyRegsAndFlags s t [] [.n, .z, .v, .c] := by
  obtain ⟨hr, hc, hv⟩ := sub16_spec (s.reg ra) (s.reg rb) false
  have hflag := PS.get_compare s.ps (sub16 (s.reg ra) (s.reg rb) false)
  rw [Bool.toNat_false] at hr
  refine ⟨_, rfl, ?n, ?z, ?c, ?v, fallsThrough_of_pc rfl,
    (((Frame.refl s _).setPs (PS.compare_keptBut _ _)).advance 1).onlyRegsAndFlags⟩
  case n =>
    simp only [State.advance_flag, State.setPs_flag, hflag, BitVec.msb_eq_decide, decide_eq_true_eq]
    omega
  case z =>
    simp only [State.advance_flag, State.setPs_flag, hflag, beq_iff_eq, BitVec.toNat_eq, BitVec.toNat_zero]
    omega
  case c => simpa [hflag] using hc
  case v => simpa [hflag, SignedOverflow] using hv

/-- The difference that NEG and a negating ABS take (R124, R128): it borrows unless the operand is 0, and overflows for
0x8000 alone. -/
theorem sub16_zero_spec (v : Word) :
    (sub16 0#16 v false).r.toNat = (65536 - v.toNat) % 65536 ∧ ((sub16 0#16 v false).c = true ↔ v.toNat ≠ 0) ∧
      ((sub16 0#16 v false).v = true ↔ v.toNat = 32768) := by
  obtain ⟨hr, hc, hv⟩ := sub16_spec 0#16 v false
  rw [hc, hv, word_toInt v]
  simp only [BitVec.toNat_zero, BitVec.toInt_zero, Bool.toNat_false] at hr ⊢
  refine ⟨by omega, by omega, ?_⟩
  split <;> omega

theorem exec_neg : ∃ t, exec (.neg ra) s = .next t ∧
    (t.reg ra).toNat = (65536 - (s.reg ra).toNat) % 65536 ∧
    (t.flag .c = true ↔ (s.reg ra).toNat ≠ 0) ∧ (t.flag .v = true ↔ (s.reg ra).toNat = 32768) ∧
    ArithWritten s t ra := by
  obtain ⟨hr, hc, hv⟩ := sub16_zero_spec (s.reg ra)
  refine ⟨_, rfl, ?_, ?_, ?_, s.arithResult_arithWritten ..⟩
  · rw [s.arithResult_reg_self, hr]
  · rw [s.arithResult_flag_c, hc]
  · rw [s.arithResult_flag_v, hv]

/-- A register that is not negative is left by ABS, with the flags of `PS.absNonNegative` (R128). -/
theorem exec_abs_of_nonneg (h : (s.reg ra).msb = false) : ∃ t, exec (.abs ra) s = .next t ∧
    t.reg ra = s.reg ra ∧ t.flag .c = false ∧ t.flag .v = false ∧ ArithWritten s t ra := by
  have hexec : exec (.abs ra) s = .next ((s.setPs (PS.absNonNegative s.ps (s.reg ra))).advance 1) := by
    simp [exec, execAbs, h]
  have hflag := PS.get_absNonNegative s.ps (s.reg ra)
  refine ⟨_, hexec, rfl, hflag .c, hflag .v, nzOf_of_flags ((hflag .n).trans h.symm) (hflag .z),
    (hflag .x).trans (hflag .c).symm, fallsThrough_of_pc rfl, (execAbs_frame hexec).onlyRegsAndFlags⟩

/-- A negative register is negated by ABS as by NEG (R128). -/
theorem exec_abs_of_neg (h : (s.reg ra).msb = true) : exec (.abs ra) s = exec (.neg ra) s := by
  simp [exec, execAbs, execNeg, h]

theorem exec_abs : ∃ t, exec (.abs ra) s = .next t ∧ (t.reg ra).toNat = (s.reg ra).toInt.natAbs ∧
    (t.flag .c = true ↔ (s.reg ra).toInt < 0) ∧ (t.flag .v = true ↔ (s.reg ra).toNat = 32768) ∧
    ArithWritten s t ra := by
  have hmsb := BitVec.msb_eq_decide (s.reg ra)
  have hint := word_toInt (s.reg ra)
  cases h : (s.reg ra).msb with
  | false =>
    obtain ⟨t, ht, hr, hc, hv, hw⟩ := exec_abs_of_nonneg s ra h
    have hlow : (s.reg ra).toNat < 32768 := by simpa [h] using hmsb
    rw [if_pos hlow] at hint
    rw [hint]
    exact ⟨t, ht, by rw [hr]; rfl, by simp [hc], by simp [hv]; omega, hw⟩
  | true =>
    obtain ⟨t, ht, hr, hc, hv, hw⟩ := exec_neg s ra
    have hhigh : 32768 ≤ (s.reg ra).toNat := by simpa [h] using hmsb
    rw [if_neg (by omega)] at hint
    refine ⟨t, (exec_abs_of_neg s ra h).trans ht, ?_, ?_, hv, hw⟩
    · omega
    · rw [hc]; omega

theorem exec_addx : ∃ t, exec .addx s = .next t ∧
    (t.reg .r0).toNat = ((s.reg .r0).toNat + (s.reg .r1).toNat + (s.flag .x).toNat) % 65536 ∧
    (t.flag .c = true ↔ 65536 ≤ (s.reg .r0).toNat + (s.reg .r1).toNat + (s.flag .x).toNat) ∧
    (t.flag .v = true ↔ SignedOverflow ((s.reg .r0).toInt + (s.reg .r1).toInt + (s.flag .x).toNat)) ∧
    ExtendedWritten s t := by
  obtain ⟨hr, hc, hv⟩ := add16_spec (s.reg .r0) (s.reg .r1) (s.flag .x)
  refine ⟨_, rfl, ?_, ?_, ?_, s.extendedResult_extendedWritten _⟩
  · rw [s.extendedResult_reg, hr]
  · rw [s.extendedResult_flag_c, hc]
  · rw [s.extendedResult_flag_v, hv]; rfl

theorem exec_subx : ∃ t, exec .subx s = .next t ∧
    ((t.reg .r0).toNat : Int) = ((s.reg .r0).toNat - (s.reg .r1).toNat - (s.flag .x).toNat : Int) % 65536 ∧
    (t.flag .c = true ↔ (s.reg .r0).toNat < (s.reg .r1).toNat + (s.flag .x).toNat) ∧
    (t.flag .v = true ↔ SignedOverflow ((s.reg .r0).toInt - (s.reg .r1).toInt - (s.flag .x).toNat)) ∧
    ExtendedWritten s t := by
  obtain ⟨hr, hc, hv⟩ := sub16_spec (s.reg .r0) (s.reg .r1) (s.flag .x)
  refine ⟨_, rfl, ?_, ?_, ?_, s.extendedResult_extendedWritten _⟩
  · rw [s.extendedResult_reg, hr]
  · rw [s.extendedResult_flag_c, hc]
  · rw [s.extendedResult_flag_v, hv]; rfl

theorem exec_negx : ∃ t, exec .negx s = .next t ∧
    ((t.reg .r0).toNat : Int) = (0 - (s.reg .r0).toNat - (s.flag .x).toNat : Int) % 65536 ∧
    (t.flag .c = true ↔ 0 < (s.reg .r0).toNat + (s.flag .x).toNat) ∧
    (t.flag .v = true ↔ SignedOverflow (0 - (s.reg .r0).toInt - (s.flag .x).toNat)) ∧ ExtendedWritten s t := by
  obtain ⟨hr, hc, hv⟩ := sub16_spec 0#16 (s.reg .r0) (s.flag .x)
  refine ⟨_, rfl, ?_, ?_, ?_, s.extendedResult_extendedWritten _⟩
  · rw [s.extendedResult_reg, hr]; rfl
  · rw [s.extendedResult_flag_c, hc]; rfl
  · rw [s.extendedResult_flag_v, hv]; rfl

end Instructions

/-! Two words. -/

/-- A sum below 2^17 is its low 16 bits and its carry. -/
theorem mod_add_carry {n : Nat} {c : Bool} (hc : c = true ↔ 65536 ≤ n) (hn : n < 131072) :
    n % 65536 + 65536 * c.toNat = n := by
  cases c with
  | false =>
    have hlow : n < 65536 := by simpa using hc
    simpa using hlow
  | true =>
    have hhigh : 65536 ≤ n := by simpa using hc
    rw [Bool.toNat_true]; omega

/-- A difference of at least -2^16 is its low 16 bits less its borrow. -/
theorem emod_sub_borrow {n : Int} {c : Bool} (hc : c = true ↔ n < 0) (hlow : -65536 ≤ n) (hhigh : n < 65536) :
    n % 65536 - 65536 * (c.toNat : Int) = n := by
  cases c with
  | false =>
    have hnonneg : 0 ≤ n := by simpa using hc
    rw [Bool.toNat_false]; omega
  | true =>
    have hneg : n < 0 := by simpa using hc
    rw [Bool.toNat_true]; omega

/-- ADD as an exact sum, with the carry that X keeps (R121). -/
theorem exec_add_exact (s : State) (ra rb : Reg) : ∃ t, exec (.add ra rb) s = .next t ∧
    (t.reg ra).toNat + 65536 * (t.flag .x).toNat = (s.reg ra).toNat + (s.reg rb).toNat := by
  obtain ⟨t, ht, hr, hc, -, -, hx, -⟩ := exec_add s ra rb
  exact ⟨t, ht, by rw [hr, hx, mod_add_carry hc (by omega)]⟩

theorem exec_addx_exact (s : State) : ∃ t, exec .addx s = .next t ∧
    (t.reg .r0).toNat + 65536 * (t.flag .c).toNat =
      (s.reg .r0).toNat + (s.reg .r1).toNat + (s.flag .x).toNat := by
  obtain ⟨t, ht, hr, hc, -⟩ := exec_addx s
  have hx := Bool.toNat_le (s.flag .x)
  exact ⟨t, ht, by rw [hr, mod_add_carry hc (by omega)]⟩

/-- SUB as an exact difference, with the borrow that X keeps (R123). -/
theorem exec_sub_exact (s : State) (ra rb : Reg) : ∃ t, exec (.sub ra rb) s = .next t ∧
    ((t.reg ra).toNat : Int) - 65536 * (t.flag .x).toNat = (s.reg ra).toNat - (s.reg rb).toNat := by
  obtain ⟨t, ht, hr, hc, -, -, hx, -⟩ := exec_sub s ra rb
  exact ⟨t, ht, by rw [hr, hx, emod_sub_borrow (hc.trans (by omega)) (by omega) (by omega)]⟩

theorem exec_subx_exact (s : State) : ∃ t, exec .subx s = .next t ∧
    ((t.reg .r0).toNat : Int) - 65536 * (t.flag .c).toNat =
      (s.reg .r0).toNat - (s.reg .r1).toNat - (s.flag .x).toNat := by
  obtain ⟨t, ht, hr, hc, -⟩ := exec_subx s
  have hx := Bool.toNat_le (s.flag .x)
  exact ⟨t, ht, by rw [hr, emod_sub_borrow (hc.trans (by omega)) (by omega) (by omega)]⟩

/-! Relations after a compare. -/

/-- N and V of a difference differ exactly where it is negative: V tells that bit 15 is not its sign (R30). -/
theorem signed_lt_iff (a b : Word) {n v : Bool} (hn : n = true ↔ 32768 ≤ (a.toNat - b.toNat : Int) % 65536)
    (hv : v = true ↔ SignedOverflow (a.toInt - b.toInt)) : (n != v) = true ↔ a.toInt < b.toInt := by
  simp only [SignedOverflow, word_toInt] at hv ⊢
  rw [bne_iff_ne, ne_eq, Bool.eq_iff_iff, hn, hv]
  split <;> split <;> omega

section Conditions
variable (t : State)

/-! Of each two opposite conditions one is the complement of the other (R201). -/

theorem State.holds_ne : t.holds .ne = !t.holds .eq := rfl
theorem State.holds_cc : t.holds .cc = !t.holds .cs := rfl
theorem State.holds_ge : t.holds .ge = !t.holds .lt := (Bool.not_not _).symm
theorem State.holds_hi : t.holds .hi = !t.holds .ls := (Bool.not_or _ _).symm
theorem State.holds_gt : t.holds .gt = !t.holds .le := by
  have hle : t.holds .le = (t.holds .eq || t.holds .lt) := rfl
  rw [hle, Bool.not_or, ← t.holds_ge, Bool.and_comm]; rfl

theorem bool_not_iff {b : Bool} {p : Prop} (h : b = true ↔ p) : (!b) = true ↔ ¬p := by
  rw [Bool.not_eq_true', ← Bool.not_eq_true, h]

end Conditions

/-! The statements. -/

/-- Settles O21: the rules of ADD and ADDQ, whose constant is the word `smallValue` names. -/
theorem addAndAddq : Obligations.AddAndAddq := fun s ra rb q =>
  ⟨oneByte_of_encRR rfl rfl rfl rfl, exec_add s ra rb, oneByte_of_encRR rfl rfl rfl rfl, exec_addq s ra q⟩

/-- Settles O22: the rules of SUB, CMP and NEG; SUB and CMP with equal registers are the words of NEG and ABS (R84). -/
theorem subNegCmp : Obligations.SubNegCmp := by
  intro s ra rb
  refine ⟨fun hne => ?_, oneByte_of_encRR_self rfl rfl rfl rfl, exec_neg s ra⟩
  have hwf : (ra != rb) = true := bne_iff_ne.2 hne
  exact ⟨oneByte_of_encRR hwf rfl rfl rfl, exec_sub s ra rb, oneByte_of_encRR hwf rfl rfl rfl, exec_cmp s ra rb⟩

/-- Settles O23: `exec_abs` splits on the sign, and a negative register goes the way of NEG. -/
theorem absOfRegister : Obligations.AbsOfRegister := fun s ra =>
  ⟨oneByte_of_encRR_self rfl rfl rfl rfl, exec_abs s ra⟩

/-- Settles O24: the rules of the three, which share the ending of `State.extendedResult`. -/
theorem extendedArithmetic : Obligations.ExtendedArithmetic := fun s =>
  ⟨oneByte_of_encode rfl rfl rfl, exec_addx s, oneByte_of_encode rfl rfl rfl, exec_subx s,
    oneByte_of_encode rfl rfl rfl, exec_negx s⟩

/-- Settles O25: X carries what the low words leave over into the high words. -/
theorem twoWordArithmetic : Obligations.TwoWordArithmetic := by
  intro s ra rb
  refine ⟨?sum, fun _ => ?difference⟩
  case sum =>
    obtain ⟨t, ht, hlow⟩ := exec_add_exact s ra rb
    refine ⟨t, ht, fun u hu => ?_⟩
    obtain ⟨w, hw, hhigh⟩ := exec_addx_exact u
    exact ⟨w, hw, by rw [hu] at hhigh; omega⟩
  case difference =>
    obtain ⟨t, ht, hlow⟩ := exec_sub_exact s ra rb
    refine ⟨t, ht, fun u hu => ?_⟩
    obtain ⟨w, hw, hhigh⟩ := exec_subx_exact u
    exact ⟨w, hw, by rw [hu] at hhigh; omega⟩

/-- Settles O26: EQ, CS and LT are read off the flags of CMP; LS and LE add equality, and the other five are
complements. -/
theorem conditionsAfterCompare : Obligations.ConditionsAfterCompare := by
  intro s ra rb _
  obtain ⟨t, ht, hn, hz, hc, hv, -⟩ := exec_cmp s ra rb
  have heq : t.holds .eq = true ↔ s.reg ra = s.reg rb := hz
  have hcs : t.holds .cs = true ↔ (s.reg ra).toNat < (s.reg rb).toNat := hc
  have hlt : t.holds .lt = true ↔ (s.reg ra).toInt < (s.reg rb).toInt := signed_lt_iff _ _ hn hv
  have hls : t.holds .ls = true ↔ (s.reg ra).toNat ≤ (s.reg rb).toNat := by
    rw [State.holds, Bool.or_eq_true, hc, hz, BitVec.toNat_eq, Nat.le_iff_lt_or_eq]
  have hle : t.holds .le = true ↔ (s.reg ra).toInt ≤ (s.reg rb).toInt := by
    rw [le_iff_eq_or_lt, BitVec.toInt_inj, ← heq, ← hlt, ← Bool.or_eq_true]; rfl
  refine ⟨t, ht, heq, ?ne, ?hi, hls, ?cc, hcs, ?ge, hlt, ?gt, hle⟩
  case ne => rw [t.holds_ne, bool_not_iff heq]
  case hi => rw [t.holds_hi, bool_not_iff hls, not_le]
  case cc => rw [t.holds_cc, bool_not_iff hcs, not_lt]
  case ge => rw [t.holds_ge, bool_not_iff hlt, not_lt]
  case gt => rw [t.holds_gt, bool_not_iff hle, not_le]

end Sys2Proof.Machine
end

section
/-! SUPPORT. Encodings of two and three bytes as numbers (R54, R81, R83), and the index register of the (RI++) forms (R140). -/

namespace Sys2Proof.Machine

/-! Encodings. -/

/-- A first byte `gggg ff aa` as a number (R81). -/
theorem opcode_eq_ofNat (g : BitVec 4) (f a : BitVec 2) :
    (g ++ f ++ a : Byte) = BitVec.ofNat 8 (16 * g.toNat + 4 * f.toNat + a.toNat) :=
  List.singleton_inj.1 (encRR_eq_ofNat g f a)

/-- Format IND as a number: `100p d s i c` (R81). -/
theorem encIND_eq_ofNat (g : BitVec 4) (dsz : BitVec 2) (rc : DataReg) (ri : IndexReg) :
    encIND g dsz rc ri = [BitVec.ofNat 8 (16 * g.toNat + 4 * dsz.toNat + 2 * ri.bits.toNat + rc.bits.toNat)] := by
  have hbyte : (g ++ dsz ++ ri.bits ++ rc.bits).toNat =
      16 * g.toNat + 4 * dsz.toNat + 2 * ri.bits.toNat + rc.bits.toNat := by
    simp only [toNat_append_eq]; omega
  rw [encIND, ← hbyte, BitVec.ofNat_toNat, BitVec.setWidth_eq]

section Encodings
variable {s : State} {i : Instr} {g : BitVec 4} {dsz : BitVec 2} {b0 cycles : Nat}

theorem oneByte_of_encIND {rc : DataReg} {ri : IndexReg} (hwf : i.wf = true) (henc : encode i = encIND g dsz rc ri)
    (hb0 : b0 = 16 * g.toNat + 4 * dsz.toNat + 2 * ri.bits.toNat + rc.bits.toNat) (hcycles : s.cycles i = some cycles) :
    OneByte s i b0 cycles :=
  oneByte_of_encode hwf (by rw [henc, encIND_eq_ofNat, hb0]) hcycles

/-- What is encoded as two bytes is decoded from them, whatever follows, and is two bytes long. -/
theorem twoBytes_of_encode {m : Byte} (hwf : i.wf = true) (henc : encode i = [BitVec.ofNat 8 b0, m])
    (hcycles : s.cycles i = some cycles) : TwoBytes s i b0 m.toNat cycles := by
  have hlen : i.len = 2 := by rw [← (encodedLength i).1, henc]; rfl
  refine ⟨fun b2 => ?_, hlen, hcycles⟩
  rw [BitVec.ofNat_toNat, BitVec.setWidth_eq]
  exact decodeBytes_of_begins ⟨hwf, henc ▸ List.prefix_append _ [b2]⟩

theorem twoBytes_of_encByte {ra : Reg} {m : Byte} (hwf : i.wf = true) (henc : encode i = encByte g dsz ra m)
    (hb0 : b0 = 16 * g.toNat + 4 * dsz.toNat + ra.bits.toNat) (hcycles : s.cycles i = some cycles) :
    TwoBytes s i b0 m.toNat cycles :=
  twoBytes_of_encode hwf (by rw [henc, encByte, opcode_eq_ofNat, hb0]) hcycles

/-- What is encoded as a byte and a word is decoded from that byte and the bytes of the word, low byte first (R54). -/
theorem threeBytes_of_encode {v : Word} (hwf : i.wf = true) (henc : encode i = [BitVec.ofNat 8 b0, loByte v, hiByte v])
    (hcycles : s.cycles i = some cycles) : ThreeBytes s i b0 v cycles := by
  have hlen : i.len = 3 := by rw [← (encodedLength i).1, henc]; rfl
  refine ⟨fun b1 b2 h => ?_, hlen, hcycles⟩
  obtain rfl : joinBytes b1 b2 = v := BitVec.eq_of_toNat_eq ((joinBytes_toNat b1 b2).trans h)
  rw [loByte_joinBytes, hiByte_joinBytes] at henc
  exact decodeBytes_of_begins ⟨hwf, henc ▸ List.prefix_refl _⟩

theorem threeBytes_of_encWord {ra : Reg} {v : Word} (hwf : i.wf = true) (henc : encode i = encWord g dsz ra v)
    (hb0 : b0 = 16 * g.toNat + 4 * dsz.toNat + ra.bits.toNat) (hcycles : s.cycles i = some cycles) :
    ThreeBytes s i b0 v cycles :=
  threeBytes_of_encode hwf (by rw [henc, encWord, opcode_eq_ofNat, hb0]) hcycles

end Encodings

/-! The index register (R140). -/

/-- The data registers and the index registers are different registers (R21). -/
theorem dataReg_ne_indexReg (rc : DataReg) (ri : IndexReg) : dataReg rc ≠ indexReg ri := by
  cases rc <;> cases ri <;> decide

section Bump
variable (s : State) (ri : IndexReg) (size : Nat)

@[simp] theorem State.bump_reg (q : Reg) :
    (s.bump ri size).reg q = if q = indexReg ri then s.reg (indexReg ri) + BitVec.ofNat 16 size else s.reg q :=
  s.setReg_reg _ _ _

@[simp] theorem State.bump_pc : (s.bump ri size).pc = s.pc := s.setReg_pc _ _
@[simp] theorem State.bump_ps : (s.bump ri size).ps = s.ps := s.setReg_ps _ _
@[simp] theorem State.bump_devOut : (s.bump ri size).devOut = s.devOut := s.setReg_devOut _ _
@[simp] theorem State.bump_readByte (k : Access) (a : Word) : (s.bump ri size).readByte k a = s.readByte k a :=
  s.setReg_readByte _ _ _ _

/-- The index moves on modulo 2^16. -/
theorem State.bump_index_toNat :
    ((s.bump ri size).reg (indexReg ri)).toNat = ((s.reg (indexReg ri)).toNat + size) % 65536 := by
  simp

end Bump

end Sys2Proof.Machine
end

section
/-! SUPPORT. Load instructions (R140 to R158): a load that leaves the index alone has the ending of `State.logicResult`, and
the (RI++) forms move the index on as well. -/

namespace Sys2Proof.Machine

theorem zext8_toNat (b : Byte) : (zext8 b).toNat = b.toNat := BitVec.toNat_setWidth_of_le (by decide)

theorem State.eaStack_toNat (s : State) (m : Byte) : (s.eaStack m).toNat = (s.sp.toNat + m.toNat) % 65536 := by
  rw [State.eaStack, BitVec.toNat_add, zext8_toNat]

theorem State.load_reg (s : State) (r q : Reg) (v : Word) : (s.load r v).reg q = if q = r then v else s.reg q :=
  s.setReg_reg r q v

/-- A load and the next instruction are the ending that the logical instructions have (R110, R140). -/
theorem State.load_advance (s : State) (r : Reg) (v : Word) (len : Nat) :
    (s.load r v).advance len = s.logicResult r v len := rfl

section Loads
variable {s : State} {i : Instr} {v : Word} {n : Nat}

theorem exec_of_load {ra : Reg} {len : Nat} (h : exec i s = .next ((s.load ra v).advance len)) (hv : v.toNat = n) :
    ∃ t, exec i s = .next t ∧ (t.reg ra).toNat = n ∧ LogicWritten s t ra len := by
  rw [s.load_advance] at h
  exact ⟨_, h, by rw [s.logicResult_reg_self, hv], s.logicResult_logicWritten ..⟩

/-- The (RI++) forms: the data register is not the index register, so neither write covers the other. -/
theorem exec_of_load_bump {rc : DataReg} {ri : IndexReg} {size : Nat}
    (h : exec i s = .next (((s.load (dataReg rc) v).bump ri size).advance 1)) (hv : v.toNat = n) :
    ∃ t, exec i s = .next t ∧ (t.reg (dataReg rc)).toNat = n ∧
      (t.reg (indexReg ri)).toNat = ((s.reg (indexReg ri)).toNat + size) % 65536 ∧
      LogicFlagsOf t (t.reg (dataReg rc)) ∧ FallsThrough s t 1 ∧
      OnlyRegsAndFlags s t [dataReg rc, indexReg ri] [.n, .z, .v, .c] := by
  have hne := dataReg_ne_indexReg rc ri
  have hdata : (((s.load (dataReg rc) v).bump ri size).advance 1).reg (dataReg rc) = v := by
    simp [State.load_reg, hne]
  have hframe : Frame s (s.load (dataReg rc) v) ⟨[dataReg rc, indexReg ri], [.n, .z, .v, .c], [], false⟩ :=
    s.load_frame (by simp) v
  refine ⟨_, h, by rw [hdata, hv], ?index, ?flags, ?next, ((hframe.bump (by simp) size).advance 1).onlyRegsAndFlags⟩
  case index =>
    rw [State.advance_reg, State.bump_index_toNat, State.load_reg, if_neg hne.symm]
  case flags =>
    rw [hdata]
    exact logicFlagsOf_of_ps (State.bump_ps _ ri size)
  case next => exact fallsThrough_of_pc (by simp [State.nextPc, State.load])

end Loads

/-! The statements. -/

/-- Settles O27: four loads from the index register as it was, the last two of which then move it on. -/
theorem loadIndirect : Obligations.LoadIndirect := fun s _ _ =>
  ⟨oneByte_of_encIND rfl rfl rfl rfl, exec_of_load rfl (s.readWord_toNat ..),
    oneByte_of_encIND rfl rfl rfl rfl, exec_of_load rfl (zext8_toNat _),
    oneByte_of_encIND rfl rfl rfl rfl, exec_of_load_bump rfl (s.readWord_toNat ..),
    oneByte_of_encIND rfl rfl rfl rfl, exec_of_load_bump rfl (zext8_toNat _)⟩

/-- Settles O28: the offset from SP is unsigned, and each load is that of its effective address. -/
theorem loadStackAndAbsolute : Obligations.LoadStackAndAbsolute := fun s _ m _ =>
  ⟨s.eaStack_toNat m,
    twoBytes_of_encByte rfl rfl rfl rfl, exec_of_load rfl (s.readWord_toNat ..),
    twoBytes_of_encByte rfl rfl rfl rfl, exec_of_load rfl (zext8_toNat _),
    threeBytes_of_encWord rfl rfl rfl rfl, exec_of_load rfl (s.readWord_toNat ..),
    threeBytes_of_encWord rfl rfl rfl rfl, exec_of_load rfl (zext8_toNat _)⟩

/-- Settles O29: loads whose value is in the instruction. -/
theorem loadImmediate : Obligations.LoadImmediate := fun s _ _ b =>
  ⟨threeBytes_of_encWord rfl rfl rfl rfl, ⟨_, rfl, s.logicResult_reg_self .., s.logicResult_logicWritten ..⟩,
    twoBytes_of_encByte rfl rfl rfl rfl, exec_of_load rfl (zext8_toNat b)⟩

end Sys2Proof.Machine
end

section
/-! SUPPORT. Store instructions (R140 to R159): what reached memory and devices stays so while the index moves on and the
store retires, and the other effects are those of the store's frame. -/

namespace Sys2Proof.Machine

/-! What reached memory and devices (R52). -/

section Stored
variable {s t u : State} {a v : Word} {b : Byte}

/-- `t` and `u` read the same at every address, and devices have received the same in both. -/
def SameStores (t u : State) : Prop := (∀ k c, u.readByte k c = t.readByte k c) ∧ u.devOut = t.devOut

theorem WordStored.of_sameStores (h : WordStored s t a v) (htu : SameStores t u) : WordStored s u a v := by
  obtain ⟨hread, hdev⟩ := htu
  simpa only [WordStored, MemKeptBut, ByteAt, hread, hdev] using h

theorem ByteStored.of_sameStores (h : ByteStored s t a b) (htu : SameStores t u) : ByteStored s u a b := by
  obtain ⟨hread, hdev⟩ := htu
  simpa only [ByteStored, MemKeptBut, ByteAt, hread, hdev] using h

theorem State.retireStore_sameStores (s t : State) (len : Nat) : SameStores t (s.retireStore t len) :=
  ⟨fun _ _ => rfl, rfl⟩

theorem State.bump_retireStore_sameStores (s t : State) (ri : IndexReg) (size len : Nat) :
    SameStores t (s.retireStore (t.bump ri size) len) :=
  ⟨by simp, by simp⟩

end Stored

section Stores
variable (s : State) (ea : Word) (r q : Reg)

theorem State.storeWord_stored : WordStored s (s.storeWord ea r) ea (s.reg r) :=
  (s.writeWord_stored ea (s.reg r)).of_sameStores ⟨fun _ _ => rfl, rfl⟩

/-- The byte stored is the low byte of the register (R144). -/
theorem State.storeByte_stored : ByteStored s (s.storeByte ea r) ea (BitVec.ofNat 8 ((s.reg r).toNat % 256)) := by
  have hlow : BitVec.ofNat 8 ((s.reg r).toNat % 256) = loByte (s.reg r) := by
    rw [← loByte_toNat, BitVec.ofNat_toNat, BitVec.setWidth_eq]
  rw [hlow]
  exact (s.writeByte_stored ea (loByte (s.reg r))).of_sameStores ⟨fun _ _ => rfl, rfl⟩

theorem State.storeWord_reg : (s.storeWord ea r).reg q = s.reg q := s.writeWord_reg ea (s.reg r) q

theorem State.storeByte_reg : (s.storeByte ea r).reg q = s.reg q := s.writeByte_reg ea (loByte (s.reg r)) q

end Stores

/-! What every store leaves beside memory. -/

/-- The flags of `v`, no other flag and no register but those listed changed, SP as it was, and the store retired. -/
def StoreWritten (s t : State) (v : Word) (regs : List Reg) (len : Nat) : Prop :=
  LogicFlagsOf t v ∧ FlagsKept s t [.n, .z, .v, .c] ∧ RegsKept s t regs ∧ t.sp = s.sp ∧ StoreRetired s t len

section Written
variable {s u : State} {v : Word} {regs : List Reg} {bytes : List Word}

theorem storeWritten_of_frame (len : Nat) (hu : Frame s u ⟨regs, [.n, .z, .v, .c], bytes, false⟩)
    (hps : u.ps = PS.logic s.ps v) : StoreWritten s (s.retireStore u len) v regs len :=
  ⟨logicFlagsOf_of_ps hps, hu.flags, hu.regs, hu.sp rfl, fallsThrough_of_pc rfl,
    s.retireStore_prefetch u len hu.ramDiffers, hu.platform⟩

/-- The (RI++) forms: `u` is the state with the store done, in which the index is as it was. -/
theorem storeWritten_of_bump {ri : IndexReg} (size : Nat)
    (hu : Frame s u ⟨[indexReg ri], [.n, .z, .v, .c], bytes, false⟩) (hps : u.ps = PS.logic s.ps v)
    (hindex : u.reg (indexReg ri) = s.reg (indexReg ri)) :
    ((s.retireStore (u.bump ri size) 1).reg (indexReg ri)).toNat = ((s.reg (indexReg ri)).toNat + size) % 65536 ∧
      StoreWritten s (s.retireStore (u.bump ri size) 1) v [indexReg ri] 1 := by
  refine ⟨?_, storeWritten_of_frame 1 (hu.bump (List.mem_singleton_self _) size) ((u.bump_ps ri size).trans hps)⟩
  rw [State.retireStore_reg, State.bump_index_toNat, hindex]

end Written

/-! One rule for each ending of a store instruction. -/

section Instructions
variable {s : State} {i : Instr} {ea : Word} {r : Reg} {ri : IndexReg} {len size : Nat}

theorem exec_of_storeWord (h : exec i s = .next (s.retireStore (s.storeWord ea r) len)) :
    ∃ t, exec i s = .next t ∧ WordStored s t ea (s.reg r) ∧ StoreWritten s t (s.reg r) [] len :=
  ⟨_, h, (s.storeWord_stored ea r).of_sameStores (s.retireStore_sameStores _ len),
    storeWritten_of_frame len (s.storeWord_frame [] ea r) rfl⟩

theorem exec_of_storeWord_bump (h : exec i s = .next (s.retireStore ((s.storeWord ea r).bump ri size) 1)) :
    ∃ t, exec i s = .next t ∧ WordStored s t ea (s.reg r) ∧
      (t.reg (indexReg ri)).toNat = ((s.reg (indexReg ri)).toNat + size) % 65536 ∧
      StoreWritten s t (s.reg r) [indexReg ri] 1 :=
  ⟨_, h, (s.storeWord_stored ea r).of_sameStores (s.bump_retireStore_sameStores _ ri size 1),
    storeWritten_of_bump size (s.storeWord_frame _ ea r) rfl (s.storeWord_reg ea r _)⟩

theorem exec_of_storeByte (h : exec i s = .next (s.retireStore (s.storeByte ea r) len)) :
    ∃ t, exec i s = .next t ∧ ByteStored s t ea (BitVec.ofNat 8 ((s.reg r).toNat % 256)) ∧
      StoreWritten s t (s.reg r) [] len :=
  ⟨_, h, (s.storeByte_stored ea r).of_sameStores (s.retireStore_sameStores _ len),
    storeWritten_of_frame len (s.storeByte_frame [] ea r) rfl⟩

theorem exec_of_storeByte_bump (h : exec i s = .next (s.retireStore ((s.storeByte ea r).bump ri size) 1)) :
    ∃ t, exec i s = .next t ∧ ByteStored s t ea (BitVec.ofNat 8 ((s.reg r).toNat % 256)) ∧
      (t.reg (indexReg ri)).toNat = ((s.reg (indexReg ri)).toNat + size) % 65536 ∧
      StoreWritten s t (s.reg r) [indexReg ri] 1 :=
  ⟨_, h, (s.storeByte_stored ea r).of_sameStores (s.bump_retireStore_sameStores _ ri size 1),
    storeWritten_of_bump size (s.storeByte_frame _ ea r) rfl (s.storeByte_reg ea r _)⟩

end Instructions

/-! The statements. -/

/-- Settles O30: the four forms are the store of a word at their effective addresses; one of them then moves the index on. -/
theorem storeWord : Obligations.StoreWord := fun _ _ _ _ _ _ =>
  ⟨oneByte_of_encIND rfl rfl rfl rfl, exec_of_storeWord rfl,
    oneByte_of_encIND rfl rfl rfl rfl, exec_of_storeWord_bump rfl,
    twoBytes_of_encByte rfl rfl rfl rfl, exec_of_storeWord rfl,
    threeBytes_of_encWord rfl rfl rfl rfl, exec_of_storeWord rfl⟩

/-- Settles O31: as for a word, with the low byte stored and the flags still those of the whole register. -/
theorem storeByte : Obligations.StoreByte := fun _ _ _ _ _ _ =>
  ⟨oneByte_of_encIND rfl rfl rfl rfl, exec_of_storeByte rfl,
    oneByte_of_encIND rfl rfl rfl rfl, exec_of_storeByte_bump rfl,
    twoBytes_of_encByte rfl rfl rfl rfl, exec_of_storeByte rfl,
    threeBytes_of_encWord rfl rfl rfl rfl, exec_of_storeByte rfl⟩

end Sys2Proof.Machine
end

section
/-! SUPPORT. Stack and stack-pointer instructions (R160 to R167): a push is a store that also moves SP, a pop is a read that
moves it back, and the other effects are those of the frame. What is pushed and then popped follows from the two. -/

namespace Sys2Proof.Machine

/-! Pushes (R160, R161, R163). -/

section Pushes
variable (s : State) (R : List Reg) (F : List Flag)

theorem State.pushWord_frame (v : Word) : Frame s (s.pushWord v) ⟨R, F, [s.sp - 2#16, s.sp - 1#16], true⟩ :=
  (Frame.refl s _).pushWord rfl (by simp) (by simp) v

theorem State.pushByte_frame (v : Byte) : Frame s (s.pushByte v) ⟨R, F, [s.sp - 1#16], true⟩ :=
  (Frame.refl s _).pushByte rfl (by simp) v

end Pushes

/-- What a retired store leaves beside memory and SP: no other flag and no other register changed, the next instruction, and
the old opcode byte perhaps waiting (R66, R283). -/
theorem retireStore_kept_of_frame {s u : State} {w : Writes} (len : Nat) (hu : Frame s u w) :
    FlagsKept s (s.retireStore u len) w.flags ∧ RegsKept s (s.retireStore u len) w.regs ∧
      StoreRetired s (s.retireStore u len) len :=
  ⟨hu.flags, hu.regs, fallsThrough_of_pc rfl, s.retireStore_prefetch u len hu.ramDiffers, hu.platform⟩

/-- Settles O32: the bytes stored and SP are those of the push, the flags of PUSH RA are written after it, and the rest is
the frame of a retired store. -/
theorem pushRegisterAndPs : Obligations.PushRegisterAndPs := by
  intro s ra
  refine ⟨oneByte_of_encRR rfl rfl rfl rfl, ?reg, oneByte_of_encode rfl rfl rfl, ?ps⟩
  case reg =>
    obtain ⟨hsp, hstored⟩ := s.pushWord_stored (s.reg ra)
    exact ⟨_, rfl, hsp, hstored.of_sameStores ⟨fun _ _ => rfl, rfl⟩, logicFlagsOf_of_ps rfl,
      retireStore_kept_of_frame 1 ((s.pushWord_frame [] _ _).setPs (PS.logic_keptBut _ _))⟩
  case ps =>
    obtain ⟨hsp, hstored⟩ := s.pushByte_stored s.ps
    exact ⟨_, rfl, hsp, hstored.of_sameStores (s.retireStore_sameStores _ 1),
      retireStore_kept_of_frame 1 (s.pushByte_frame [] [] s.ps)⟩

/-! Pops (R160, R162, R164). -/

section Pops
variable (s : State)

/-- POP RA: the word on the top of the stack and its flags; the frame lets SP move and holds no store (R162). -/
theorem exec_popReg (ra : Reg) :
    ∃ t, exec (.popReg ra) s = .next t ∧ t.reg ra = s.topWord ∧ t.sp = s.sp + 2#16 ∧ t.ps = PS.logic s.ps s.topWord ∧
      t.pc = s.nextPc 1 ∧ Frame s t ⟨[ra], [.n, .z, .v, .c], [], true⟩ :=
  ⟨_, rfl, by simp [State.dropWord], by simp [State.dropWord], rfl, by simp [State.dropWord, State.nextPc],
    ((((Frame.refl s _).setReg (by simp) _).setSp rfl _).setPs (PS.logic_keptBut _ _)).advance 1⟩

/-- POP PS: a whole byte for PS, so that the frame keeps no flag (R164). -/
theorem exec_popPs :
    ∃ t, exec .popPs s = .next t ∧ t.ps = s.topByte ∧ t.sp = s.sp + 1#16 ∧ t.pc = s.nextPc 1 ∧
      Frame s t ⟨[], [.i, .n, .z, .v, .x, .c, .d, .u], [], true⟩ :=
  ⟨_, rfl, rfl, rfl, rfl, (((Frame.refl s _).setPs (PS.all_keptBut _ _)).setSp rfl _).advance 1⟩

end Pops

/-- Settles O33: the value is the one on the top of the stack, and the rest is the frame without a store. -/
theorem popRegisterAndPs : Obligations.PopRegisterAndPs := by
  intro s ra
  refine ⟨oneByte_of_encRR rfl rfl rfl rfl, ?reg, oneByte_of_encode rfl rfl rfl, ?ps⟩
  case reg =>
    obtain ⟨t, ht, hreg, hsp, hps, hpc, hframe⟩ := exec_popReg s ra
    refine ⟨t, ht, ?_, ?_, logicFlagsOf_of_ps (hreg ▸ hps), hframe.flags, hframe.regs, fallsThrough_of_pc hpc,
      hframe.noStore⟩
    · rw [hreg, State.topWord, s.readWord_toNat]
    · rw [hsp, BitVec.toNat_add]; rfl
  case ps =>
    obtain ⟨t, ht, hps, hsp, hpc, hframe⟩ := exec_popPs s
    refine ⟨t, ht, hps, ?_, hframe.regs, fallsThrough_of_pc hpc, hframe.noStore⟩
    rw [hsp, BitVec.toNat_add]; rfl

/-! The stack pointer as a value (R165 to R167). -/

theorem sext8_toInt (b : Byte) : (sext8 b).toInt = b.toInt := BitVec.toInt_signExtend_of_le (by decide)

/-- Adding a sign-extended byte adds its signed value modulo 2^16. -/
theorem add_sext8_toNat (a : Word) (b : Byte) : ((a + sext8 b).toNat : Int) = (a.toNat + b.toInt) % 65536 := by
  have hsigned := word_toInt (sext8 b)
  rw [sext8_toInt] at hsigned
  rw [BitVec.toNat_add]
  split at hsigned <;> omega

/-- What writing SP alone leaves as it was. -/
theorem State.setSp_advance_kept (s : State) (v : Word) (len : Nat) :
    FallsThrough s ((s.setSp v).advance len) len ∧ RegsKept s ((s.setSp v).advance len) [] ∧
      FlagsKept s ((s.setSp v).advance len) [] ∧ NoStore s ((s.setSp v).advance len) := by
  have hframe : Frame s ((s.setSp v).advance len) ⟨[], [], [], true⟩ := ((Frame.refl s _).setSp rfl v).advance len
  exact ⟨fallsThrough_of_pc rfl, hframe.regs, hframe.flags, hframe.noStore⟩

/-- Settles O34: one copy from SP, and two writes of SP alone. -/
theorem stackPointerMoves : Obligations.StackPointerMoves := by
  intro s imm
  refine ⟨oneByte_of_encode rfl rfl rfl, ?fromSp, oneByte_of_encode rfl rfl rfl, ⟨_, rfl, rfl, s.setSp_advance_kept ..⟩,
    twoBytes_of_encode rfl rfl rfl, ⟨_, rfl, add_sext8_toNat s.sp imm, s.setSp_advance_kept ..⟩⟩
  case fromSp =>
    exact ⟨_, rfl, rfl, fallsThrough_of_pc rfl, (((Frame.refl s _).setReg (by simp) s.sp).advance 1).onlyRegsAndFlags⟩

/-! What is pushed is popped (R160). -/

/-- A stored word is read back where both its bytes are ram (R55). -/
theorem WordStored.readWord {s t : State} {a v : Word} (h : WordStored s t a v) (hlo : s.region a = .ram)
    (hhi : s.region (a + 1#16) = .ram) (k : Access) : t.readWord k a = v := by
  obtain ⟨-, hlow, hhigh, -⟩ := h
  apply BitVec.eq_of_toNat_eq
  rw [t.readWord_toNat, (hlow k).1 hlo, (hhigh k).1 hhi]
  omega

theorem ByteStored.readByte {s t : State} {a : Word} {v : Byte} (h : ByteStored s t a v) (hram : s.region a = .ram)
    (k : Access) : t.readByte k a = v := by
  obtain ⟨-, hbyte, -⟩ := h
  exact BitVec.eq_of_toNat_eq ((hbyte k).1 hram)

/-- Settles O35: the push leaves the value at the new SP, which is where the pop takes it. -/
theorem popAfterPush : Obligations.PopAfterPush := by
  intro s ra rb hlo hhi
  obtain ⟨-, ⟨t, ht, htsp, hword, -⟩, -, ⟨t', ht', htsp', hbyte, -⟩⟩ := pushRegisterAndPs s ra
  constructor
  · obtain ⟨u, hu, hreg, husp, -⟩ := exec_popReg t rb
    have hnext : s.sp - 2#16 + 1#16 = s.sp - 1#16 := by bv_omega
    refine ⟨t, u, ht, hu, ?_, ?_⟩
    · rw [hreg, State.topWord, htsp, hword.readWord hlo (hnext ▸ hhi)]
    · rw [husp, htsp, BitVec.sub_add_cancel]
  · obtain ⟨u, hu, hps, husp, -⟩ := exec_popPs t'
    refine ⟨t', u, ht', hu, ?_, ?_⟩
    · rw [hps, State.topByte, htsp', hbyte.readByte hhi]
    · rw [husp, htsp', BitVec.sub_add_cancel]

end Sys2Proof.Machine
end

section
/-! SUPPORT. Bit instructions (R187 to R192): their encodings as numbers, the bit number, and the two endings `State.bitTest`
and `State.bitWrite`. -/

namespace Sys2Proof.Machine

/-! Encodings of the bit group (R81, R89). -/

section Encodings
variable {s : State} {i : Instr} {ra rp : Reg} {fn : BitVec 2} {k : BitVec 4} {b1 cycles : Nat}

/-- What is encoded as two bytes of group 0xD is decoded from them as numbers. -/
theorem twoBytes_of_descriptor {op : BitVec 2} {d : Byte} {b0 : Nat} (hwf : i.wf = true)
    (henc : encode i = [0xD#4 ++ op ++ ra.bits, d]) (hb0 : b0 = 0xD0 + 4 * op.toNat + ra.bits.toNat)
    (hb1 : b1 = d.toNat) (hcycles : s.cycles i = some cycles) : TwoBytes s i b0 b1 cycles := by
  subst hb1
  exact twoBytes_of_encByte hwf henc hb0 hcycles

theorem twoBytes_of_encBitImm (hwf : i.wf = true) (henc : encode i = encBitImm fn 0#1 ra k)
    (hb1 : b1 = 64 * fn.toNat + k.toNat) (hcycles : s.cycles i = some cycles) :
    TwoBytes s i (0xDC + ra.bits.toNat) b1 cycles := by
  have hdesc : (fn ++ 0#1 ++ 0#1 ++ k : Byte).toNat = 64 * fn.toNat + k.toNat := by
    simp only [toNat_append_eq, BitVec.toNat_ofNat]; omega
  exact twoBytes_of_descriptor hwf henc rfl (hb1.trans hdesc.symm) hcycles

theorem twoBytes_of_encBitReg (hwf : i.wf = true) (henc : encode i = encBitReg fn 0#3 ra rp)
    (hb1 : b1 = 64 * fn.toNat + 32 + rp.bits.toNat) (hcycles : s.cycles i = some cycles) :
    TwoBytes s i (0xDC + ra.bits.toNat) b1 cycles := by
  have hdesc : (fn ++ 1#1 ++ 0#3 ++ rp.bits : Byte).toNat = 64 * fn.toNat + 32 + rp.bits.toNat := by
    simp only [toNat_append_eq, BitVec.toNat_ofNat]; omega
  exact twoBytes_of_descriptor hwf henc rfl (hb1.trans hdesc.symm) hcycles

end Encodings

/-! One bit of a word (R187). -/

/-- Bit `k` is the one written and every other bit is kept (R189 to R191). -/
theorem withBit_getLsbD (v : Word) (k : BitVec 4) (b : Bool) {j : Nat} (hj : j < 16) :
    (withBit v k b).getLsbD j = if j = k.toNat then b else v.getLsbD j := by
  have hmask : (1#16 <<< k.toNat).getLsbD j = decide (j = k.toNat) := by
    rw [← BitVec.twoPow_eq, BitVec.getLsbD_twoPow]
    simp [k.isLt, eq_comm]
  cases b with
  | true =>
    rw [withBit, if_pos rfl, BitVec.getLsbD_or, hmask]
    by_cases h : j = k.toNat <;> simp only [h, decide_true, decide_false, Bool.or_true, Bool.or_false, if_true, if_false]
  | false =>
    rw [withBit, if_neg Bool.false_ne_true, BitVec.getLsbD_and, BitVec.getLsbD_not, hmask]
    by_cases h : j = k.toNat <;> simp [h, hj]

theorem State.bitNumber_toNat (s : State) (rp : Reg) : (s.bitNumber rp).toNat = (s.reg rp).toNat % 16 := by
  simp [State.bitNumber]

/-! The two endings (R187). -/

section Results
variable (s : State) (ra rp : Reg) (k : BitVec 4) (b : Bool)

/-- BTST leaves bit `k` what it was (R188). -/
theorem State.bitTest_bitWritten : BitWritten s (s.bitTest ra k) ra k.toNat ((s.reg ra).getLsbD k.toNat) := by
  have hframe : Frame s (s.bitTest ra k) ⟨[ra], [.z], [], false⟩ :=
    ((Frame.refl s _).setPs (PS.bitTest_keptBut _ _)).advance 2
  refine ⟨PS.get_bitTest _ _ .z, fun j _ => ?_, fallsThrough_of_pc rfl, hframe.onlyRegsAndFlags⟩
  split
  next h => rw [h]; rfl
  next => rfl

theorem State.bitWrite_bitWritten : BitWritten s (s.bitWrite ra k b) ra k.toNat b := by
  refine ⟨PS.get_bitTest _ _ .z, fun j hj => ?_, fallsThrough_of_pc ?_, (s.bitWrite_frame ra k b).onlyRegsAndFlags⟩
  · rw [← withBit_getLsbD _ k b hj]
    simp [State.bitWrite]
  · simp [State.bitWrite, State.nextPc]

/-- The register forms: the bit number is the one that the statements name (R187). -/
theorem State.bitTest_reg_bitWritten :
    BitWritten s (s.bitTest ra (s.bitNumber rp)) ra ((s.reg rp).toNat % 16)
      ((s.reg ra).getLsbD ((s.reg rp).toNat % 16)) :=
  s.bitNumber_toNat rp ▸ s.bitTest_bitWritten ra (s.bitNumber rp)

theorem State.bitWrite_reg_bitWritten :
    BitWritten s (s.bitWrite ra (s.bitNumber rp) b) ra ((s.reg rp).toNat % 16) b :=
  s.bitNumber_toNat rp ▸ s.bitWrite_bitWritten ra (s.bitNumber rp) b

/-- BCHG with a register writes the complement of the bit that it tests, also where Rp is RA (R189). -/
theorem State.bitChange_reg_bitWritten :
    BitWritten s (s.bitWrite ra (s.bitNumber rp) !(bitOf (s.reg ra) (s.bitNumber rp))) ra ((s.reg rp).toNat % 16)
      (!(s.reg ra).getLsbD ((s.reg rp).toNat % 16)) :=
  s.bitNumber_toNat rp ▸ s.bitWrite_bitWritten ra (s.bitNumber rp) _

end Results

/-! The statements. -/

/-- Settles O42: BTST has the ending that writes no register, and BCHG writes the complement of the bit. -/
theorem bitTestAndChange : Obligations.BitTestAndChange := fun s ra rp k =>
  ⟨twoBytes_of_encBitImm rfl rfl rfl rfl, ⟨_, rfl, s.bitTest_bitWritten ra k⟩,
    twoBytes_of_encBitReg rfl rfl rfl rfl, ⟨_, rfl, s.bitTest_reg_bitWritten ra rp⟩,
    twoBytes_of_encBitImm rfl rfl rfl rfl, ⟨_, rfl, s.bitWrite_bitWritten ra k _⟩,
    twoBytes_of_encBitReg rfl rfl rfl rfl, ⟨_, rfl, s.bitChange_reg_bitWritten ra rp⟩⟩

/-- Settles O43: the ending that writes a bit, with 0 and with 1. -/
theorem bitClearAndSet : Obligations.BitClearAndSet := fun s ra rp k =>
  ⟨twoBytes_of_encBitImm rfl rfl rfl rfl, ⟨_, rfl, s.bitWrite_bitWritten ra k false⟩,
    twoBytes_of_encBitReg rfl rfl rfl rfl, ⟨_, rfl, s.bitWrite_reg_bitWritten ra rp false⟩,
    twoBytes_of_encBitImm rfl rfl rfl rfl, ⟨_, rfl, s.bitWrite_bitWritten ra k true⟩,
    twoBytes_of_encBitReg rfl rfl rfl rfl, ⟨_, rfl, s.bitWrite_reg_bitWritten ra rp true⟩⟩

end Sys2Proof.Machine
end

section
/-! SUPPORT. The closed forms of the shift and rotate steps (R171 to R174). How the bits of the operand move is said once
for all four kinds; which bits enter is said kind by kind. -/

namespace Sys2Proof.Machine

/-! So many steps from a value and X (R172). -/

/-- The value `v` moved by `k` places, from the flag `x`. -/
def movedBy (fn : ShiftFn) (left : Bool) (k : Nat) (v : Word) (x : Bool) : ShiftState :=
  shiftSteps fn left k { v := v, x := x, out := false, msbChanged := false }

theorem shiftRun_of_pos (fn : ShiftFn) {n : Int} (v : Word) (x : Bool) (hn : 0 < n) :
    shiftRun fn n v x = movedBy fn true n.natAbs v x := by
  rw [shiftRun, decide_eq_true hn, movedBy]

theorem shiftRun_of_neg (fn : ShiftFn) {n : Int} (v : Word) (x : Bool) (hn : n < 0) :
    shiftRun fn n v x = movedBy fn false n.natAbs v x := by
  rw [shiftRun, decide_eq_false hn.not_gt, movedBy]

/-- The last step can be taken apart from the others, as the first is in the definition. -/
theorem shiftSteps_succ (fn : ShiftFn) (left : Bool) (k : Nat) (t : ShiftState) :
    shiftSteps fn left (k + 1) t = shiftStep fn left (shiftSteps fn left k t) := by
  induction k generalizing t with
  | zero => rfl
  | succ k ih => exact ih (shiftStep fn left t)

section Moved
variable (fn : ShiftFn) (left : Bool) (k : Nat) (v : Word) (x : Bool)

theorem movedBy_zero : movedBy fn left 0 v x = { v := v, x := x, out := false, msbChanged := false } := rfl

theorem movedBy_succ : movedBy fn left (k + 1) v x = shiftStep fn left (movedBy fn left k v x) :=
  shiftSteps_succ fn left k _

/-! The bits of the operand, the last bit out and bit 15: the same for every kind of movement (R173, R174). -/

theorem shiftStep_left_getLsbD (t : ShiftState) {j : Nat} (hj : j < 15) :
    (shiftStep fn true t).v.getLsbD (j + 1) = t.v.getLsbD j :=
  BitVec.getLsbD_append.trans (by simp [hj])

theorem shiftStep_right_getLsbD (t : ShiftState) {j : Nat} (hj : j < 15) :
    (shiftStep fn false t).v.getLsbD j = t.v.getLsbD (j + 1) :=
  BitVec.getLsbD_append.trans (by simp [hj, Nat.add_comm])

theorem movedBy_left_getLsbD {j : Nat} (hj : j + k < 16) :
    (movedBy fn true k v x).v.getLsbD (j + k) = v.getLsbD j := by
  induction k with
  | zero => rfl
  | succ k ih => rw [movedBy_succ, ← Nat.add_assoc, shiftStep_left_getLsbD fn _ (by omega), ih (by omega)]

theorem movedBy_right_getLsbD {j : Nat} (hj : j + k < 16) :
    (movedBy fn false k v x).v.getLsbD j = v.getLsbD (j + k) := by
  induction k generalizing j with
  | zero => rfl
  | succ k ih =>
    rw [movedBy_succ, shiftStep_right_getLsbD fn _ (by omega), ih (by omega), Nat.add_right_comm, Nat.add_assoc]

theorem movedBy_left_msb (hk : k ≤ 15) : (movedBy fn true k v x).v.msb = v.getLsbD (15 - k) := by
  rw [BitVec.msb_eq_getLsbD_last, ← movedBy_left_getLsbD fn k v x (by omega), Nat.sub_add_cancel hk]

/-- The bit that leaves last in a left movement (R173). -/
theorem movedBy_left_out (hpos : 0 < k) (hk : k ≤ 16) : (movedBy fn true k v x).out = v.getLsbD (16 - k) := by
  obtain ⟨k, rfl⟩ : ∃ m, k = m + 1 := ⟨k - 1, by omega⟩
  rw [movedBy_succ, show 16 - (k + 1) = 15 - k by omega, ← movedBy_left_msb fn k v x (by omega)]
  rfl

/-- The bit that leaves last in a right movement (R173). -/
theorem movedBy_right_out (hpos : 0 < k) (hk : k ≤ 16) : (movedBy fn false k v x).out = v.getLsbD (k - 1) := by
  obtain ⟨k, rfl⟩ : ∃ m, k = m + 1 := ⟨k - 1, by omega⟩
  rw [movedBy_succ, Nat.add_sub_cancel, ← Nat.zero_add k, ← movedBy_right_getLsbD fn k v x (by omega)]
  simp [shiftStep]

/-- Bit 15 never changed in a left movement exactly where the bits that passed through it are all equal (R174). -/
theorem movedBy_left_msbChanged (hk : k ≤ 15) :
    (movedBy fn true k v x).msbChanged = false ↔ ∀ j, j ≤ k → v.getLsbD (15 - j) = v.getLsbD 15 := by
  induction k with
  | zero => simp [movedBy_zero]
  | succ k ih =>
    have hstep : (movedBy fn true (k + 1) v x).msbChanged =
        ((movedBy fn true k v x).msbChanged || (movedBy fn true (k + 1) v x).v.msb != (movedBy fn true k v x).v.msb) := by
      rw [movedBy_succ]; rfl
    rw [hstep, movedBy_left_msb fn _ v x hk, movedBy_left_msb fn k v x (by omega), Bool.or_eq_false_iff, ih (by omega),
      bne_eq_false_iff_eq]
    constructor
    · rintro ⟨hall, hlast⟩ j hj
      rcases Nat.le_succ_iff.1 hj with hle | rfl
      · exact hall j hle
      · exact hlast.trans (hall k (Nat.le_refl k))
    · intro hall
      exact ⟨fun j hj => hall j (by omega), (hall (k + 1) (Nat.le_refl _)).trans (hall k (by omega)).symm⟩

/-! The operand as a number after one step (R171). -/

theorem word_msb_toNat (v : Word) : v.msb.toNat = v.toNat / 32768 := by
  rw [BitVec.msb_eq_getLsbD_last, ← BitVec.testBit_toNat, Nat.toNat_testBit]
  omega

theorem word_lsb_toNat (v : Word) : (v.getLsbD 0).toNat = v.toNat % 2 := by
  rw [← BitVec.testBit_toNat, Nat.toNat_testBit, Nat.pow_zero, Nat.div_one]

theorem shiftStep_left_toNat (t : ShiftState) :
    (shiftStep fn true t).v.toNat = 2 * (t.v.toNat % 32768) + (enteringBit fn true t.v t.x t.v.msb).toNat :=
  (toNat_append_eq (t.v.extractLsb' 0 15) _).trans (by simp)

theorem shiftStep_right_toNat (t : ShiftState) :
    (shiftStep fn false t).v.toNat = 32768 * (enteringBit fn false t.v t.x (t.v.getLsbD 0)).toNat + t.v.toNat / 2 := by
  have hlow : (t.v.extractLsb' 1 15).toNat = t.v.toNat / 2 := by
    rw [BitVec.extractLsb'_toNat, Nat.shiftRight_eq_div_pow]; omega
  refine (toNat_append_eq _ (t.v.extractLsb' 1 15)).trans ?_
  rw [hlow, BitVec.toNat_ofBool]
  rfl

/-! Shifts: the bits that enter are 0, or the sign (R171, R173). -/

theorem movedBy_left_shift (hfn : fn = .logical ∨ fn = .arithmetic) : (movedBy fn true k v x).v = v <<< k := by
  have hstep (t : ShiftState) : (shiftStep fn true t).v = t.v <<< 1 := by
    apply BitVec.eq_of_toNat_eq
    have hzero : enteringBit fn true t.v t.x t.v.msb = false := by rcases hfn with rfl | rfl <;> rfl
    rw [shiftStep_left_toNat, hzero, Bool.toNat_false, BitVec.toNat_shiftLeft, Nat.shiftLeft_eq]
    omega
  induction k with
  | zero => simp [movedBy_zero]
  | succ k ih => rw [movedBy_succ, hstep, ih, ← BitVec.shiftLeft_add]

theorem movedBy_right_logical : (movedBy .logical false k v x).v = v >>> k := by
  have hstep (t : ShiftState) : (shiftStep .logical false t).v = t.v >>> 1 := by
    apply BitVec.eq_of_toNat_eq
    have hzero : enteringBit .logical false t.v t.x (t.v.getLsbD 0) = false := rfl
    rw [shiftStep_right_toNat, hzero, Bool.toNat_false, BitVec.toNat_ushiftRight, Nat.shiftRight_eq_div_pow]
    omega
  induction k with
  | zero => simp [movedBy_zero]
  | succ k ih => rw [movedBy_succ, hstep, ih, ← BitVec.shiftRight_add]

theorem movedBy_right_arithmetic : (movedBy .arithmetic false k v x).v = v.sshiftRight k := by
  have hstep (t : ShiftState) : (shiftStep .arithmetic false t).v = t.v.sshiftRight 1 := by
    apply BitVec.eq_of_toInt_eq
    have hsign : (enteringBit .arithmetic false t.v t.x (t.v.getLsbD 0)).toNat = t.v.toNat / 32768 := word_msb_toNat t.v
    rw [BitVec.toInt_sshiftRight, Int.shiftRight_eq_div_pow, word_toInt, word_toInt t.v, shiftStep_right_toNat, hsign]
    split <;> split <;> omega
  induction k with
  | zero => simp [movedBy_zero]
  | succ k ih => rw [movedBy_succ, hstep, ih, ← BitVec.sshiftRight_add]

end Moved

/-! Rotations of an `n`-bit value (R171, R173). -/

/-- An `n`-bit value rotated left by `k` places, at most `n`: the top `k` bits come in below the others. -/
def rotatedLeft (n w k : Nat) : Nat := w * 2 ^ k % 2 ^ n + w / 2 ^ (n - k)

section Rotations
variable {n w k : Nat}

/-- The two parts of a rotated value: the low bits moved up, and the top bits below them. -/
theorem rotatedLeft_eq (hk : k ≤ n) : rotatedLeft n w k = w % 2 ^ (n - k) * 2 ^ k + w / 2 ^ (n - k) := by
  have hpow : 2 ^ n = 2 ^ (n - k) * 2 ^ k := by rw [← Nat.pow_add, Nat.sub_add_cancel hk]
  rw [rotatedLeft, hpow, Nat.mul_mod_mul_right]

theorem rotatedLeft_zero (hw : w < 2 ^ n) : rotatedLeft n w 0 = w := by
  simp [rotatedLeft, Nat.mod_eq_of_lt hw, Nat.div_eq_of_lt hw]

/-- A rotation by all places. -/
theorem rotatedLeft_self : rotatedLeft n w n = w := by simp [rotatedLeft]

/-- One place more takes the top bit of the rotated value from above the others to below them. -/
theorem exists_rotatedLeft_succ (hk : k < n) (hw : w < 2 ^ n) :
    ∃ top rest, top < 2 ∧ rest < 2 ^ (n - 1) ∧ rotatedLeft n w k = 2 ^ (n - 1) * top + rest ∧
      rotatedLeft n w (k + 1) = 2 * rest + top := by
  obtain ⟨m, rfl⟩ : ∃ m, n = m + k + 1 := ⟨n - k - 1, by omega⟩
  have hhigh : w / 2 ^ (m + 1) < 2 ^ k := Nat.div_lt_of_lt_mul (by rwa [← Nat.pow_add, Nat.add_right_comm])
  have hlow : w % 2 ^ m < 2 ^ m := Nat.mod_lt w (Nat.two_pow_pos m)
  refine ⟨w / 2 ^ m % 2, w % 2 ^ m * 2 ^ k + w / 2 ^ (m + 1), Nat.mod_lt _ (by decide), ?rest, ?now, ?next⟩
  case rest =>
    calc w % 2 ^ m * 2 ^ k + w / 2 ^ (m + 1) < (w % 2 ^ m + 1) * 2 ^ k := by rw [Nat.succ_mul]; omega
      _ ≤ 2 ^ m * 2 ^ k := Nat.mul_le_mul_right _ hlow
      _ = 2 ^ (m + k) := (Nat.pow_add ..).symm
  case now =>
    rw [rotatedLeft_eq hk.le, show m + k + 1 - k = m + 1 by omega, Nat.pow_succ, Nat.mod_mul, Nat.add_sub_cancel,
      Nat.pow_add]
    ring
  case next =>
    have hhalf : w / 2 ^ m = 2 * (w / 2 ^ (m + 1)) + w / 2 ^ m % 2 := by
      rw [Nat.pow_succ, ← Nat.div_div_eq_div_mul]; omega
    rw [rotatedLeft_eq hk, show m + k + 1 - (k + 1) = m by omega, Nat.pow_succ]
    linarith

end Rotations

/-! Rotates: the bit that leaves enters, or X does and takes its place (R171, R173). -/

section Rotates
variable {k : Nat} (v : Word) (x : Bool)

theorem movedBy_left_rotate (hk : k ≤ 16) : (movedBy .rotate true k v x).v.toNat = rotatedLeft 16 v.toNat k := by
  induction k with
  | zero => exact (rotatedLeft_zero v.isLt).symm
  | succ k ih =>
    have ih := ih (by omega)
    obtain ⟨top, rest, htop, hrest, hnow, hnext⟩ := exists_rotatedLeft_succ hk v.isLt
    rw [movedBy_succ, shiftStep_left_toNat, enteringBit, word_msb_toNat, hnext]
    omega

theorem movedBy_right_rotate (hk : k ≤ 16) :
    (movedBy .rotate false k v x).v.toNat = rotatedLeft 16 v.toNat (16 - k) := by
  induction k with
  | zero => exact rotatedLeft_self.symm
  | succ k ih =>
    have ih := ih (by omega)
    obtain ⟨top, rest, htop, hrest, hnow, hnext⟩ :=
      exists_rotatedLeft_succ (show 16 - (k + 1) < 16 by omega) v.isLt
    rw [show 16 - (k + 1) + 1 = 16 - k by omega] at hnext
    rw [movedBy_succ, shiftStep_right_toNat, enteringBit, word_lsb_toNat, hnow]
    omega

/-- Leftward X is above the operand. -/
theorem movedBy_left_rotateX (hk : k ≤ 17) :
    65536 * (movedBy .rotateX true k v x).x.toNat + (movedBy .rotateX true k v x).v.toNat =
      rotatedLeft 17 (65536 * x.toNat + v.toNat) k := by
  have hx := x.toNat_lt
  have hw : 65536 * x.toNat + v.toNat < 2 ^ 17 := by omega
  induction k with
  | zero => exact (rotatedLeft_zero hw).symm
  | succ k ih =>
    have ih := ih (by omega)
    obtain ⟨top, rest, htop, hrest, hnow, hnext⟩ := exists_rotatedLeft_succ hk hw
    have hxnext : (movedBy .rotateX true (k + 1) v x).x = (movedBy .rotateX true k v x).v.msb := by rw [movedBy_succ]; rfl
    rw [hxnext, movedBy_succ, shiftStep_left_toNat, enteringBit, word_msb_toNat, hnext]
    omega

/-- Rightward X is below the operand. -/
theorem movedBy_right_rotateX (hk : k ≤ 17) :
    2 * (movedBy .rotateX false k v x).v.toNat + (movedBy .rotateX false k v x).x.toNat =
      rotatedLeft 17 (2 * v.toNat + x.toNat) (17 - k) := by
  have hx := x.toNat_lt
  have hw : 2 * v.toNat + x.toNat < 2 ^ 17 := by omega
  induction k with
  | zero => exact rotatedLeft_self.symm
  | succ k ih =>
    have ih := ih (by omega)
    obtain ⟨top, rest, htop, hrest, hnow, hnext⟩ := exists_rotatedLeft_succ (show 17 - (k + 1) < 17 by omega) hw
    rw [show 17 - (k + 1) + 1 = 17 - k by omega] at hnext
    have hxnext : (movedBy .rotateX false (k + 1) v x).x = (movedBy .rotateX false k v x).v.getLsbD 0 := by
      rw [movedBy_succ]; rfl
    have hxk := (movedBy .rotateX false k v x).x.toNat_lt
    rw [hxnext, movedBy_succ, shiftStep_right_toNat, enteringBit, word_lsb_toNat, hnow]
    omega

/-- X is the bit that left last (R172). -/
theorem movedBy_rotateX_x (left : Bool) (hpos : 0 < k) :
    (movedBy .rotateX left k v x).x = (movedBy .rotateX left k v x).out := by
  obtain ⟨k, rfl⟩ : ∃ m, k = m + 1 := ⟨k - 1, by omega⟩
  rw [movedBy_succ]; rfl

end Rotates

end Sys2Proof.Machine
end

section
/-! SUPPORT. Shift, rotate and weight instructions (R170 to R186): their encodings and counts, what a movement leaves in the
state, and the closed forms of the operand put in. -/

namespace Sys2Proof.Machine

/-! Counts (R170, R184). -/

/-- A five-bit field as a signed number. -/
theorem toInt_eq_signed5 (c : BitVec 5) : c.toInt = signed5 c.toNat := by
  have hlt := c.isLt
  rw [BitVec.toInt_eq_toNat_cond, signed5]
  split <;> split <;> omega

theorem signed5_mod (n : Nat) : signed5 (n % 32) = signed5 n := by rw [signed5, Nat.mod_mod, signed5]

theorem signed5_range (n : Nat) : -16 ≤ signed5 n ∧ signed5 n ≤ 15 := by
  rw [signed5]; split <;> omega

theorem neg_signed5_range {n : Nat} (h : signed5 n ≠ -16) : -16 ≤ -(signed5 n) ∧ -(signed5 n) ≤ 15 := by
  have hrange := signed5_range n
  omega

theorem signed5_eq_neg_sixteen_iff (n : Nat) : signed5 n = -16 ↔ n % 32 = 16 := by
  rw [signed5]; split <;> omega

theorem countImm_eq (c : BitVec 5) : countImm c = signed5 c.toNat := toInt_eq_signed5 c

section Counts
variable (s : State) (rp : Reg)

theorem State.countLeft_eq : s.countLeft rp = signed5 (s.reg rp).toNat := by
  rw [State.countLeft, toInt_eq_signed5, BitVec.extractLsb'_toNat, ← signed5_mod (s.reg rp).toNat]
  rfl

/-- The count of an xxR form, but for 10000, is the other one negated. -/
theorem State.countRight_eq_some (h : signed5 (s.reg rp).toNat ≠ -16) :
    s.countRight rp = some (-(signed5 (s.reg rp).toNat)) := by
  rw [State.countRight, s.countLeft_eq, if_neg h]

theorem State.countRight_eq_none (h : (s.reg rp).toNat % 32 = 16) : s.countRight rp = none := by
  rw [State.countRight, s.countLeft_eq, if_pos ((signed5_eq_neg_sixteen_iff _).2 h)]

end Counts

/-! Encodings of the shift group and its cycles (R81, R89, R185). -/

section Encodings
variable {s : State} {i : Instr} {ra rp : Reg} {fn : BitVec 2} {l w : BitVec 1} {c : BitVec 5} {b1 cycles : Nat}

theorem twoBytes_of_encShiftImm (hwf : i.wf = true) (henc : encode i = encShiftImm fn ra c)
    (hb1 : b1 = 64 * fn.toNat + c.toNat) (hcycles : s.cycles i = shiftCycles (some (countImm c))) :
    TwoBytes s i (0xD8 + ra.bits.toNat) b1 (4 + (signed5 c.toNat).natAbs) := by
  have hdesc : (fn ++ 0#1 ++ c : Byte).toNat = 64 * fn.toNat + c.toNat := by
    simp only [toNat_append_eq, BitVec.toNat_ofNat]; omega
  rw [countImm_eq] at hcycles
  exact twoBytes_of_descriptor hwf henc rfl (hb1.trans hdesc.symm) hcycles

theorem twoBytes_of_encShiftReg (hwf : i.wf = true) (henc : encode i = encShiftReg fn l w 0#1 ra rp)
    (hb1 : b1 = 64 * fn.toNat + 32 + 16 * l.toNat + 8 * w.toNat + rp.bits.toNat) (hcycles : s.cycles i = some cycles) :
    TwoBytes s i (0xD8 + ra.bits.toNat) b1 cycles := by
  have hdesc : (fn ++ 1#1 ++ l ++ w ++ 0#1 ++ rp.bits : Byte).toNat =
      64 * fn.toNat + 32 + 16 * l.toNat + 8 * w.toNat + rp.bits.toNat := by
    simp only [toNat_append_eq, BitVec.toNat_ofNat]; omega
  exact twoBytes_of_descriptor hwf henc rfl (hb1.trans hdesc.symm) hcycles

/-- The xxL forms, plain and weight. -/
theorem twoBytes_of_countLeft (hwf : i.wf = true) (henc : encode i = encShiftReg fn 0#1 w 0#1 ra rp)
    (hb1 : b1 = 64 * fn.toNat + 32 + 8 * w.toNat + rp.bits.toNat)
    (hcycles : s.cycles i = shiftCycles (some (s.countLeft rp))) :
    TwoBytes s i (0xD8 + ra.bits.toNat) b1 (4 + (signed5 (s.reg rp).toNat).natAbs) := by
  rw [s.countLeft_eq] at hcycles
  exact twoBytes_of_encShiftReg hwf henc hb1 hcycles

/-- The xxR forms, plain and weight: as many places as the count before it is negated. -/
theorem twoBytes_of_countRight (h : signed5 (s.reg rp).toNat ≠ -16) (hwf : i.wf = true)
    (henc : encode i = encShiftReg fn 1#1 w 0#1 ra rp) (hb1 : b1 = 64 * fn.toNat + 48 + 8 * w.toNat + rp.bits.toNat)
    (hcycles : s.cycles i = shiftCycles (s.countRight rp)) :
    TwoBytes s i (0xD8 + ra.bits.toNat) b1 (4 + (signed5 (s.reg rp).toNat).natAbs) := by
  rw [s.countRight_eq_some rp h, shiftCycles, Option.map_some, Int.natAbs_neg] at hcycles
  exact twoBytes_of_encShiftReg hwf henc hb1 hcycles

end Encodings

/-! What a shift or rotate leaves in the state (R172). -/

section Shifts
variable (s : State) (fn : ShiftFn) (ra : Reg) {n : Int} {r : ShiftState}

theorem State.shift_zero : s.shift fn ra 0 = (s.setPs (PS.logic s.ps (s.reg ra))).advance 2 := by
  rw [State.shift, if_pos rfl]; rfl

/-- A shift by one place or more, `r` being what the steps give. -/
theorem State.shift_of_run (hn : n ≠ 0) (hr : shiftRun fn n (s.reg ra) (s.flag .x) = r) :
    s.shift fn ra n =
      ((s.setReg ra r.v).setPs (PS.shift s.ps r.v (shiftOverflow fn n r) r.out (fn != .rotate))).advance 2 := by
  rw [State.shift, if_neg hn, hr]

/-- The operand and the flags C, V and X after it. -/
theorem State.shift_result (hn : n ≠ 0) (hr : shiftRun fn n (s.reg ra) (s.flag .x) = r) :
    (s.shift fn ra n).reg ra = r.v ∧ (s.shift fn ra n).flag .c = r.out ∧
      (s.shift fn ra n).flag .v = shiftOverflow fn n r ∧
      (s.shift fn ra n).flag .x = if fn != .rotate then r.out else s.flag .x := by
  rw [s.shift_of_run fn ra hn hr]
  simp [PS.get_shift, State.flag]

theorem State.shift_notMoved : NotMoved s (s.shift fn ra 0) ra := by
  rw [s.shift_zero]
  simp [NotMoved, PS.get_logic, State.flag]

theorem State.shift_shiftWritten (n : Int) : ShiftWritten s (s.shift fn ra n) ra := by
  have hframe : Frame s (s.shift fn ra n) ⟨[ra], [.n, .z, .v, .x, .c], [], false⟩ :=
    s.shift_frame (by simp) fn (by simp) ra n
  suffices NZOf (s.shift fn ra n) ((s.shift fn ra n).reg ra) ∧ (s.shift fn ra n).pc = s.nextPc 2 by
    obtain ⟨hnz, hpc⟩ := this
    exact ⟨hnz, fallsThrough_of_pc hpc, hframe.onlyRegsAndFlags⟩
  by_cases hn : n = 0
  · rw [hn, s.shift_zero]
    exact ⟨nzOf_of_flags (by simp [PS.get_logic]) (by simp [PS.get_logic]), rfl⟩
  · rw [s.shift_of_run fn ra hn rfl]
    exact ⟨nzOf_of_flags (by simp [PS.get_shift]) (by simp [PS.get_shift]), by simp [State.nextPc]⟩

/-! The four kinds, over every effective count. -/

theorem State.shift_shiftedLeft (hfn : fn = .logical ∨ fn = .arithmetic) (hpos : 0 < n) (hn : n ≤ 15) :
    ShiftedLeft s (s.shift fn ra n) ra n.natAbs := by
  obtain ⟨hv, hc, hV, hx⟩ := s.shift_result fn ra hpos.ne' (shiftRun_of_pos fn _ _ hpos)
  have hoverflow (r : ShiftState) : shiftOverflow fn n r = r.msbChanged := by
    rcases hfn with rfl | rfl <;> simp [shiftOverflow, hpos]
  have hwritesX : (fn != .rotate) = true := by rcases hfn with rfl | rfl <;> rfl
  refine ⟨?_, ?_, ?_, ?_⟩
  · rw [hv, movedBy_left_shift fn _ _ _ hfn, BitVec.toNat_shiftLeft, Nat.shiftLeft_eq]
  · rw [hc, movedBy_left_out fn _ _ _ (by omega) (by omega)]
  · rw [hx, hc, if_pos hwritesX]
  · rw [hV, hoverflow, movedBy_left_msbChanged fn _ _ _ (by omega)]

theorem State.shift_logicalShifted (hn : -16 ≤ n ∧ n ≤ 15) :
    LogicalShifted s (s.shift .logical ra n) ra n := by
  refine ⟨s.shift_shiftWritten .logical ra n, fun h => h ▸ s.shift_notMoved .logical ra,
    fun hpos => s.shift_shiftedLeft .logical ra (.inl rfl) hpos hn.2, fun hneg => ?_⟩
  obtain ⟨hv, hc, hV, hx⟩ := s.shift_result .logical ra hneg.ne (shiftRun_of_neg .logical _ _ hneg)
  refine ⟨?_, ?_, hx.trans hc.symm, ?_⟩
  · rw [hv, movedBy_right_logical, BitVec.toNat_ushiftRight, Nat.shiftRight_eq_div_pow]
  · rw [hc, movedBy_right_out .logical _ _ _ (by omega) (by omega)]
  · rw [hV, shiftOverflow, decide_eq_false hneg.not_gt, Bool.false_and]

theorem State.shift_arithmeticShifted (hn : -16 ≤ n ∧ n ≤ 15) :
    ArithmeticShifted s (s.shift .arithmetic ra n) ra n := by
  refine ⟨s.shift_shiftWritten .arithmetic ra n, fun h => h ▸ s.shift_notMoved .arithmetic ra,
    fun hpos => s.shift_shiftedLeft .arithmetic ra (.inr rfl) hpos hn.2, fun hneg => ?_⟩
  obtain ⟨hv, hc, hV, hx⟩ := s.shift_result .arithmetic ra hneg.ne (shiftRun_of_neg .arithmetic _ _ hneg)
  refine ⟨?_, ?_, hx.trans hc.symm, ?_⟩
  · rw [hv, movedBy_right_arithmetic, BitVec.toInt_sshiftRight, Int.shiftRight_eq_div_pow, Nat.cast_pow, Nat.cast_ofNat]
  · rw [hc, movedBy_right_out .arithmetic _ _ _ (by omega) (by omega)]
  · rw [hV, shiftOverflow, decide_eq_false hneg.not_gt, Bool.false_and]

theorem State.shift_rotated (hn : -16 ≤ n ∧ n ≤ 15) : Rotated s (s.shift .rotate ra n) ra n := by
  have hx : (s.shift .rotate ra n).flag .x = s.flag .x := by
    by_cases hzero : n = 0
    · obtain ⟨-, -, -, hx⟩ := s.shift_notMoved .rotate ra
      rw [hzero, hx]
    · obtain ⟨-, -, -, hx⟩ := s.shift_result .rotate ra hzero rfl
      exact hx
  refine ⟨s.shift_shiftWritten .rotate ra n, hx, fun h => h ▸ s.shift_notMoved .rotate ra, fun hpos => ?left,
    fun hneg => ?right⟩
  case left =>
    obtain ⟨hv, hc, hV, -⟩ := s.shift_result .rotate ra hpos.ne' (shiftRun_of_pos .rotate _ _ hpos)
    refine ⟨?_, ?_, hV⟩
    · rw [hv, movedBy_left_rotate _ _ (by omega)]; rfl
    · rw [hc, movedBy_left_out .rotate _ _ _ (by omega) (by omega)]
  case right =>
    obtain ⟨hv, hc, hV, -⟩ := s.shift_result .rotate ra hneg.ne (shiftRun_of_neg .rotate _ _ hneg)
    have hk : n.natAbs ≤ 16 := by omega
    refine ⟨?_, ?_, hV⟩
    · rw [hv, movedBy_right_rotate _ _ hk, rotatedLeft_eq (Nat.sub_le ..), Nat.sub_sub_self hk]
    · rw [hc, movedBy_right_out .rotate _ _ _ (by omega) hk]

theorem State.shift_rotatedThroughX (hn : -16 ≤ n ∧ n ≤ 15) :
    RotatedThroughX s (s.shift .rotateX ra n) ra n := by
  refine ⟨s.shift_shiftWritten .rotateX ra n, fun h => h ▸ s.shift_notMoved .rotateX ra, fun hpos => ?left,
    fun hneg => ?right⟩
  case left =>
    obtain ⟨hv, hc, hV, hx⟩ := s.shift_result .rotateX ra hpos.ne' (shiftRun_of_pos .rotateX _ _ hpos)
    refine ⟨hV, hx.trans hc.symm, ?_⟩
    rw [hv, hc, ← movedBy_rotateX_x _ _ true (by omega), movedBy_left_rotateX _ _ (by omega)]
    rfl
  case right =>
    obtain ⟨hv, hc, hV, hx⟩ := s.shift_result .rotateX ra hneg.ne (shiftRun_of_neg .rotateX _ _ hneg)
    refine ⟨hV, hx.trans hc.symm, ?_⟩
    rw [hv, hc, ← movedBy_rotateX_x _ _ false (by omega), movedBy_right_rotateX _ _ (by omega)]
    rfl

end Shifts

/-! Weights (R183, R184). -/

theorem onesBelow_eq_length (v : Word) (k : Nat) :
    onesBelow v k = ((List.range k).filter (fun j => v.getLsbD j)).length := by
  induction k with
  | zero => rfl
  | succ k ih =>
    rw [onesBelow, ih, List.range_succ, List.filter_append, List.length_append]
    cases h : v.getLsbD k <;> simp [List.filter, h]

theorem onesBelow_le (v : Word) (k : Nat) : onesBelow v k ≤ k := by
  rw [onesBelow_eq_length]
  exact (List.length_filter_le _ _).trans_eq List.length_range

section WeightForms
variable (s : State) (ra : Reg) {n : Int}

theorem State.weightOf_toNat (v : Word) (hlow : -16 ≤ n) (hn : n ≤ 0) :
    (s.weightOf v n).toNat = ((List.range n.natAbs).filter (fun j => v.getLsbD j)).length := by
  rcases hn.lt_or_eq with hneg | rfl
  · have hle := onesBelow_le v n.natAbs
    rw [State.weightOf, if_pos hneg, BitVec.toNat_ofNat, Nat.mod_eq_of_lt (by omega), onesBelow_eq_length]
  · rfl

@[simp] theorem State.weigh_reg_self : (s.weigh ra n).reg ra = s.weightOf (s.reg ra) n := by simp [State.weigh]

theorem State.weigh_flag (f : Flag) : (s.weigh ra n).flag f = PS.get (PS.weight s.ps (s.weightOf (s.reg ra) n)) f := rfl

theorem State.weigh_weighed (hlow : -16 ≤ n) : Weighed s (s.weigh ra n) ra n := by
  have hflag (f : Flag) := (s.weigh_flag ra (n := n) f).trans (PS.get_weight _ _ f)
  refine ⟨fun hn => ?_, hflag .n, hflag .v, hflag .x, ?_, ?_, fallsThrough_of_pc ?_,
    (s.weigh_frame ra n).onlyRegsAndFlags⟩
  · rw [s.weigh_reg_self, s.weightOf_toNat _ hlow hn]
  · rw [s.weigh_reg_self, ← word_beq_zero]; exact hflag .z
  · rw [s.weigh_reg_self, ← Nat.testBit_zero, BitVec.testBit_toNat]; exact hflag .c
  · simp [State.weigh, State.nextPc]

end WeightForms

/-! A count field of 10000 in an xxR form: free values for RA and five flags, and the next instruction (R184, D18). -/

section NegatedSixteen
variable {s : State} {ra rp : Reg}

theorem State.shiftFree_written (s : State) (ra : Reg) :
    FallsThrough s (s.shiftFree ra) 2 ∧ OnlyRegsAndFlags s (s.shiftFree ra) [ra] [.n, .z, .v, .x, .c] :=
  ⟨fallsThrough_of_pc (by simp [State.shiftFree, State.nextPc]), (s.shiftFree_frame ra).onlyRegsAndFlags⟩

theorem State.shiftRight_eq_shiftFree (h : (s.reg rp).toNat % 32 = 16) (fn : ShiftFn) :
    s.shiftRight fn ra (s.countRight rp) = s.shiftFree ra := by
  rw [s.countRight_eq_none rp h]; rfl

theorem State.weighRight_eq_shiftFree (h : (s.reg rp).toNat % 32 = 16) :
    s.weighRight ra (s.countRight rp) = s.shiftFree ra := by
  rw [s.countRight_eq_none rp h]; rfl

theorem exec_of_shiftFree {i : Instr} {t : State} (hi : exec i s = .next t) (ht : t = s.shiftFree ra) :
    ∃ t, exec i s = .next t ∧ FallsThrough s t 2 ∧ OnlyRegsAndFlags s t [ra] [.n, .z, .v, .x, .c] :=
  ⟨_, ht ▸ hi, s.shiftFree_written ra⟩

end NegatedSixteen

/-! One rule for each kind of count: what holds of the movement by the count that the statements name holds after the
instruction. -/

section Instructions
variable {s : State} {i : Instr} {fn : ShiftFn} {ra rp : Reg} {c : BitVec 5} {P : State → Prop}

theorem exec_of_shiftImm (h : exec i s = .next (s.shift fn ra (countImm c)))
    (hP : P (s.shift fn ra (signed5 c.toNat))) : ∃ t, exec i s = .next t ∧ P t :=
  ⟨_, countImm_eq c ▸ h, hP⟩

theorem exec_of_shiftLeft (h : exec i s = .next (s.shift fn ra (s.countLeft rp)))
    (hP : P (s.shift fn ra (signed5 (s.reg rp).toNat))) : ∃ t, exec i s = .next t ∧ P t :=
  ⟨_, s.countLeft_eq rp ▸ h, hP⟩

theorem exec_of_shiftRight (hne : signed5 (s.reg rp).toNat ≠ -16)
    (h : exec i s = .next (s.shiftRight fn ra (s.countRight rp)))
    (hP : P (s.shift fn ra (-(signed5 (s.reg rp).toNat)))) : ∃ t, exec i s = .next t ∧ P t := by
  rw [s.countRight_eq_some rp hne] at h
  exact ⟨_, h, hP⟩

theorem exec_of_weighLeft (h : exec i s = .next (s.weigh ra (s.countLeft rp))) :
    ∃ t, exec i s = .next t ∧ Weighed s t ra (signed5 (s.reg rp).toNat) := by
  rw [s.countLeft_eq] at h
  exact ⟨_, h, s.weigh_weighed ra (signed5_range _).1⟩

theorem exec_of_weighRight (hne : signed5 (s.reg rp).toNat ≠ -16)
    (h : exec i s = .next (s.weighRight ra (s.countRight rp))) :
    ∃ t, exec i s = .next t ∧ Weighed s t ra (-(signed5 (s.reg rp).toNat)) := by
  rw [s.countRight_eq_some rp hne] at h
  exact ⟨_, h, s.weigh_weighed ra (neg_signed5_range hne).1⟩

end Instructions

/-! The statements. -/

/-- Settles O36: LSL and LSR are one shift, whose closed form holds for each of the three counts. -/
theorem logicalShifts : Obligations.LogicalShifts := fun s ra _ c =>
  ⟨twoBytes_of_encShiftImm rfl rfl rfl rfl, exec_of_shiftImm rfl (s.shift_logicalShifted ra (signed5_range c.toNat)),
    twoBytes_of_countLeft rfl rfl rfl rfl, exec_of_shiftLeft rfl (s.shift_logicalShifted ra (signed5_range _)),
    fun hne => ⟨twoBytes_of_countRight hne rfl rfl rfl rfl,
      exec_of_shiftRight hne rfl (s.shift_logicalShifted ra (neg_signed5_range hne))⟩⟩

/-- Settles O37: leftward the closed form of LSL, rightward that of the sign replicated. -/
theorem arithmeticShifts : Obligations.ArithmeticShifts := fun s ra _ c =>
  ⟨twoBytes_of_encShiftImm rfl rfl rfl rfl, exec_of_shiftImm rfl (s.shift_arithmeticShifted ra (signed5_range c.toNat)),
    twoBytes_of_countLeft rfl rfl rfl rfl, exec_of_shiftLeft rfl (s.shift_arithmeticShifted ra (signed5_range _)),
    fun hne => ⟨twoBytes_of_countRight hne rfl rfl rfl rfl,
      exec_of_shiftRight hne rfl (s.shift_arithmeticShifted ra (neg_signed5_range hne))⟩⟩

/-- Settles O38: the 16-bit rotation, with X kept also where nothing moves. -/
theorem rotates : Obligations.Rotates := fun s ra _ c =>
  ⟨twoBytes_of_encShiftImm rfl rfl rfl rfl, exec_of_shiftImm rfl (s.shift_rotated ra (signed5_range c.toNat)),
    twoBytes_of_countLeft rfl rfl rfl rfl, exec_of_shiftLeft rfl (s.shift_rotated ra (signed5_range _)),
    fun hne => ⟨twoBytes_of_countRight hne rfl rfl rfl rfl,
      exec_of_shiftRight hne rfl (s.shift_rotated ra (neg_signed5_range hne))⟩⟩

/-- Settles O39: the 17-bit rotation, whose last bit out is in X. -/
theorem rotatesThroughX : Obligations.RotatesThroughX := fun s ra _ c =>
  ⟨twoBytes_of_encShiftImm rfl rfl rfl rfl, exec_of_shiftImm rfl (s.shift_rotatedThroughX ra (signed5_range c.toNat)),
    twoBytes_of_countLeft rfl rfl rfl rfl, exec_of_shiftLeft rfl (s.shift_rotatedThroughX ra (signed5_range _)),
    fun hne => ⟨twoBytes_of_countRight hne rfl rfl rfl rfl,
      exec_of_shiftRight hne rfl (s.shift_rotatedThroughX ra (neg_signed5_range hne))⟩⟩

/-- Settles O40: of the four forms for each direction one argument holds, since they differ in their encoding only. -/
theorem weights : Obligations.Weights := by
  intro s ra rp
  refine ⟨fun p hp => ?left, fun hne p hp => ?right⟩
  case left =>
    simp only [List.mem_cons, List.not_mem_nil, or_false] at hp
    rcases hp with rfl | rfl | rfl | rfl
    all_goals exact ⟨twoBytes_of_countLeft rfl rfl rfl rfl, exec_of_weighLeft rfl⟩
  case right =>
    simp only [List.mem_cons, List.not_mem_nil, or_false] at hp
    rcases hp with rfl | rfl | rfl | rfl
    all_goals exact ⟨twoBytes_of_countRight hne rfl rfl rfl rfl, exec_of_weighRight hne rfl⟩

/-- Settles O41: where no count is given the plain forms and the weights have the one ending `State.shiftFree`. -/
theorem shiftByNegatedSixteen : Obligations.ShiftByNegatedSixteen := by
  intro s ra rp h i hi
  have hplain := State.shiftRight_eq_shiftFree (ra := ra) h
  have hweight := State.weighRight_eq_shiftFree (ra := ra) h
  simp only [List.mem_cons, List.not_mem_nil, or_false] at hi
  rcases hi with rfl | rfl | rfl | rfl | rfl | rfl | rfl | rfl
  · exact exec_of_shiftFree rfl (hplain .logical)
  · exact exec_of_shiftFree rfl (hplain .arithmetic)
  · exact exec_of_shiftFree rfl (hplain .rotate)
  · exact exec_of_shiftFree rfl (hplain .rotateX)
  all_goals exact exec_of_shiftFree rfl hweight

end Sys2Proof.Machine
end

section
/-! SUPPORT. Control transfer (R200 to R211, R300 to R315): one rule for all sixteen branches, whose conditions are the rows
of the condition table as propositions, one rule for both calls, and the frames of the jumps and returns. -/

namespace Sys2Proof.Machine

/-! The address of the next instruction (R24). -/

section NextPc
variable (s : State) (len : Nat)

theorem State.nextPc_toNat : (s.nextPc len).toNat = (s.pc.toNat + len) % 65536 := fallsThrough_of_pc (State.advance_pc s len)

theorem State.nextPc_eq_ofNat : s.nextPc len = BitVec.ofNat 16 (s.pc.toNat + len) :=
  BitVec.eq_of_toNat_eq (s.nextPc_toNat len)

/-- The displacement of a branch is signed, and counts from the instruction after it (R202). -/
theorem State.branchTarget_toNat (d : Byte) :
    ((s.branchTarget d).toNat : Int) = (s.pc.toNat + 2 + d.toInt) % 65536 := by
  rw [State.branchTarget, add_sext8_toNat, s.nextPc_toNat]
  omega

end NextPc

/-! Branches (R201, R202). -/

/-- The rows of the condition table as propositions about the flags (R201). -/
def State.Meets (s : State) : Cond → Prop
  | .uc => s.flag .u = false
  | .us => s.flag .u = true
  | .hi => s.flag .c = false ∧ s.flag .z = false
  | .ls => s.flag .c = true ∨ s.flag .z = true
  | .cc => s.flag .c = false
  | .cs => s.flag .c = true
  | .ne => s.flag .z = false
  | .eq => s.flag .z = true
  | .vc => s.flag .v = false
  | .vs => s.flag .v = true
  | .pl => s.flag .n = false
  | .mi => s.flag .n = true
  | .ge => s.flag .n = s.flag .v
  | .lt => s.flag .n ≠ s.flag .v
  | .gt => s.flag .n = s.flag .v ∧ s.flag .z = false
  | .le => s.flag .z = true ∨ s.flag .n ≠ s.flag .v

theorem State.holds_iff_meets (s : State) (c : Cond) : s.holds c = true ↔ s.Meets c := by
  cases c with
  | us | cs | eq | vs | mi => exact Iff.rfl
  | uc | cc | ne | vc | pl => exact Iff.of_eq (Bool.not_eq_true' _)
  | hi | ls | ge | lt | gt | le => simp [State.holds, State.Meets]

/-- The pc is the only part of a branch that depends on its condition. -/
theorem State.branch_branched (s : State) (c : Cond) (d : Byte) : Branched s (s.branch c d) d (s.Meets c) := by
  refine ⟨fun htaken => ?taken, fun hnot => ?notTaken, (s.branch_frame c d).onlyRegsAndFlags⟩
  case taken =>
    rw [State.branch, if_pos ((s.holds_iff_meets c).2 htaken)]
    exact s.branchTarget_toNat d
  case notTaken =>
    rw [State.branch, if_neg (mt (s.holds_iff_meets c).1 hnot)]
    exact fallsThrough_of_pc rfl

section Branches
variable {s : State} {i : Instr} {d : Byte} (c : Cond)

theorem exec_of_branch (h : exec i s = .next (s.branch c d)) : ∃ t, exec i s = .next t ∧ Branched s t d (s.Meets c) :=
  ⟨_, h, s.branch_branched c d⟩

/-- What is encoded as a branch is decoded as one, at a cost that follows the condition (R90, R280). -/
theorem branchBytes_of_encode {b0 : Nat} (hwf : i.wf = true) (henc : encode i = [BitVec.ofNat 8 b0, d])
    (hcycles : s.cycles i = s.branchCycles c) : BranchBytes s i b0 d (s.Meets c) := by
  refine ⟨fun htaken => twoBytes_of_encode hwf henc ?taken, fun hnot => twoBytes_of_encode hwf henc ?notTaken⟩
  case taken => rw [hcycles, State.branchCycles, if_pos ((s.holds_iff_meets c).2 htaken)]
  case notTaken => rw [hcycles, State.branchCycles, if_neg (mt (s.holds_iff_meets c).1 hnot)]

end Branches

/-- Settles O44: eight branches by the two rules, each at its own row of the condition table. -/
theorem branchesOnUserCarryZero : Obligations.BranchesOnUserCarryZero := fun _ _ =>
  ⟨branchBytes_of_encode .uc rfl rfl rfl, exec_of_branch .uc rfl,
    branchBytes_of_encode .us rfl rfl rfl, exec_of_branch .us rfl,
    branchBytes_of_encode .hi rfl rfl rfl, exec_of_branch .hi rfl,
    branchBytes_of_encode .ls rfl rfl rfl, exec_of_branch .ls rfl,
    branchBytes_of_encode .cc rfl rfl rfl, exec_of_branch .cc rfl,
    branchBytes_of_encode .cs rfl rfl rfl, exec_of_branch .cs rfl,
    branchBytes_of_encode .ne rfl rfl rfl, exec_of_branch .ne rfl,
    branchBytes_of_encode .eq rfl rfl rfl, exec_of_branch .eq rfl⟩

/-- Settles O45, as O44, at the other eight rows. -/
theorem branchesOnOverflowNegativeSigned : Obligations.BranchesOnOverflowNegativeSigned := fun _ _ =>
  ⟨branchBytes_of_encode .vc rfl rfl rfl, exec_of_branch .vc rfl,
    branchBytes_of_encode .vs rfl rfl rfl, exec_of_branch .vs rfl,
    branchBytes_of_encode .pl rfl rfl rfl, exec_of_branch .pl rfl,
    branchBytes_of_encode .mi rfl rfl rfl, exec_of_branch .mi rfl,
    branchBytes_of_encode .ge rfl rfl rfl, exec_of_branch .ge rfl,
    branchBytes_of_encode .lt rfl rfl rfl, exec_of_branch .lt rfl,
    branchBytes_of_encode .gt rfl rfl rfl, exec_of_branch .gt rfl,
    branchBytes_of_encode .le rfl rfl rfl, exec_of_branch .le rfl⟩

/-! Jumps and NOPs (R203, R204, R210, R211). -/

theorem State.setPc_onlyRegsAndFlags (s : State) (v : Word) : OnlyRegsAndFlags s (s.setPc v) [] [] :=
  ((Frame.refl s _).setPc v).onlyRegsAndFlags

/-- Settles O46: each of the four writes the pc and nothing else. -/
theorem jumpsAndNops : Obligations.JumpsAndNops := fun s _ =>
  ⟨oneByte_of_encode rfl rfl rfl, ⟨_, rfl, rfl, s.setPc_onlyRegsAndFlags _⟩,
    threeBytes_of_encode rfl rfl rfl, ⟨_, rfl, rfl, s.setPc_onlyRegsAndFlags _⟩,
    oneByte_of_encode rfl rfl rfl, ⟨_, rfl, fallsThrough_of_pc rfl, s.setPc_onlyRegsAndFlags _⟩,
    oneByte_of_encode rfl rfl rfl, ⟨_, rfl, fallsThrough_of_pc rfl, s.setPc_onlyRegsAndFlags _⟩⟩

/-! Calls (R205, R206). -/

/-- A call is a push of the return address and a jump: it does not retire as a store that falls through
does, so no byte is left prefetched by it. -/
theorem exec_of_call {s : State} {i : Instr} {target : Word} {len : Nat} (h : exec i s = .next (s.call target len)) :
    ∃ t, exec i s = .next t ∧ t.pc = target ∧ t.sp = s.sp - 2#16 ∧
      WordStored s t (s.sp - 2#16) (BitVec.ofNat 16 (s.pc.toNat + len)) ∧ RegsKept s t [] ∧ FlagsKept s t [] ∧
      t.prefetch = s.prefetch ∧ PlatformKept s t := by
  obtain ⟨hsp, hstored⟩ := s.pushWord_stored (s.nextPc len)
  have hframe := s.call_frame target len
  refine ⟨_, h, rfl, hsp, ?stored, hframe.regs, hframe.flags, hframe.prefetch, hframe.platform⟩
  case stored =>
    rw [← s.nextPc_eq_ofNat]
    exact hstored.of_sameStores ⟨fun _ _ => rfl, rfl⟩

/-- Settles O47: both forms are the one call, from instructions of different length. -/
theorem calls : Obligations.Calls := fun _ _ =>
  ⟨oneByte_of_encode rfl rfl rfl, exec_of_call rfl, threeBytes_of_encode rfl rfl rfl, exec_of_call rfl⟩

/-! Returns and TRAP (R207 to R209). -/

/-- RET takes the word on the top of the stack for the pc; the frame lets SP move and holds no store (R207). -/
theorem exec_ret (s : State) :
    ∃ t, exec .ret s = .next t ∧ t.pc = s.topWord ∧ t.sp = s.sp + 2#16 ∧ Frame s t ⟨[], [], [], true⟩ :=
  ⟨_, rfl, rfl, rfl, ((Frame.refl s _).setPc _).setSp rfl _⟩

/-- Settles O48: RET pops a word, and RETI is the return from a trap. -/
theorem returns : Obligations.Returns := by
  intro s
  refine ⟨oneByte_of_encode rfl rfl rfl, ?ret, oneByte_of_encode rfl rfl rfl, ?reti⟩
  case ret =>
    obtain ⟨t, ht, hpc, hsp, hframe⟩ := exec_ret s
    refine ⟨t, ht, ?_, ?_, hframe.regs, hframe.flags, hframe.noStore⟩
    · rw [hpc, State.topWord, s.readWord_toNat]
    · rw [hsp, BitVec.toNat_add]; rfl
  case reti =>
    obtain ⟨hps, hpc, hsp, hregs, hstore⟩ := s.trapReturn_spec
    refine ⟨_, rfl, hps, hpc, ?_, hregs, hstore⟩
    rw [hsp, BitVec.toNat_add]; rfl

/-- Settles O49: TRAP is trap entry at its own vector, with the address of the next instruction to return to. -/
theorem trapInstruction : Obligations.TrapInstruction := by
  intro s
  obtain ⟨hentered, hplatform, hprefetch⟩ := s.trapEntry_entered (s.nextPc 1) trapVector
  refine ⟨oneByte_of_encode rfl rfl rfl, _, rfl, ?entered, hprefetch, hplatform⟩
  case entered =>
    rw [← s.nextPc_eq_ofNat]
    exact hentered

end Sys2Proof.Machine
end

section
/-! SUPPORT. Multiply, divide, square root and PS (R220 to R231): the one ending that clears the arithmetic flags, the exact
arithmetic of each result as numbers, and one rule for each instruction. -/

namespace Sys2Proof.Machine

/-! The shared ending (R220). -/

/-- What `State.finishClear` leaves beside the registers written: the arithmetic flags clear, the next instruction, and
nothing else changed. -/
def ClearWritten (s t : State) (R : List Reg) : Prop :=
  ArithFlagsClear t ∧ FallsThrough s t 1 ∧ OnlyRegsAndFlags s t R [.n, .z, .v, .x, .c]

@[simp] theorem State.finishClear_reg (s : State) (r : Reg) : s.finishClear.reg r = s.reg r := rfl

theorem State.finishClear_arithFlagsClear (s : State) : ArithFlagsClear s.finishClear := by
  have hflag (f : Flag) : s.finishClear.flag f = PS.get (PS.clearArith s.ps) f := rfl
  simp only [PS.get_clearArith] at hflag
  exact ⟨hflag .n, hflag .z, hflag .v, hflag .x, hflag .c⟩

theorem Frame.finishClear_clearWritten {s t : State} {R : List Reg}
    (h : Frame s t ⟨R, [.n, .z, .v, .x, .c], [], false⟩) (hpc : t.pc = s.pc) : ClearWritten s t.finishClear R :=
  ⟨t.finishClear_arithFlagsClear, fallsThrough_of_pc (congrArg (· + BitVec.ofNat 16 1) hpc),
    (h.finishClear (List.Subset.refl _)).onlyRegsAndFlags⟩

section Endings
variable (s : State) {R : List Reg} {p q r : Reg} (hp : p ∈ R) (hq : q ∈ R) (hr : r ∈ R) (u v w : Word)
include hp hq

/-- The ending after two registers are written. -/
theorem State.finishClear_twoRegs : ClearWritten s ((s.setReg p u).setReg q v).finishClear R :=
  (((Frame.refl s _).setReg hp u).setReg hq v).finishClear_clearWritten (by simp)

include hr

/-- The ending after three registers are written. -/
theorem State.finishClear_threeRegs : ClearWritten s (((s.setReg p u).setReg q v).setReg r w).finishClear R :=
  ((((Frame.refl s _).setReg hp u).setReg hq v).setReg hr w).finishClear_clearWritten (by simp)

end Endings

/-! Products (R221, R222). -/

/-- A 32-bit number is its high and its low word. -/
theorem highWord_add_lowWord {p : Nat} (h : p < 2 ^ 32) :
    65536 * (BitVec.ofNat 16 (p / 2 ^ 16)).toNat + (BitVec.ofNat 16 p).toNat = p := by
  simp only [BitVec.toNat_ofNat]
  omega

/-- A signed 32-bit number is the signed high word and the unsigned low word of its 32-bit image. -/
theorem signedHighWord_add_lowWord {x : Int} (hlow : -2 ^ 31 ≤ x) (hhigh : x < 2 ^ 31) :
    65536 * (BitVec.ofNat 16 ((x % 2 ^ 32).toNat / 2 ^ 16)).toInt + (BitVec.ofNat 16 (x % 2 ^ 32).toNat).toNat = x := by
  simp only [word_toInt, BitVec.toNat_ofNat]
  split <;> omega

theorem signedProduct_words (a b : Word) :
    65536 * (BitVec.ofNat 16 (signedProduct a b / 2 ^ 16)).toInt + (BitVec.ofNat 16 (signedProduct a b)).toNat =
      a.toInt * b.toInt := by
  have hlow : -2 ^ (16 * 2 - 2) ≤ a.toInt * b.toInt := BitVec.le_toInt_mul_toInt
  have hhigh : a.toInt * b.toInt ≤ 2 ^ (16 * 2 - 2) := BitVec.toInt_mul_toInt_le
  exact signedHighWord_add_lowWord (by omega) (by omega)

theorem exec_mulu (s : State) : ∃ t, exec .mulu s = .next t ∧
    65536 * (t.reg .r3).toNat + (t.reg .r2).toNat = (s.reg .r0).toNat * (s.reg .r1).toNat ∧
    ClearWritten s t [.r2, .r3] := by
  have hwords := highWord_add_lowWord (BitVec.toNat_mul_toNat_lt (x := s.reg .r0) (y := s.reg .r1))
  exact ⟨_, rfl, by simpa using hwords, s.finishClear_twoRegs (by simp) (by simp) _ _⟩

theorem exec_muls (s : State) : ∃ t, exec .muls s = .next t ∧
    65536 * (t.reg .r3).toInt + (t.reg .r2).toNat = (s.reg .r0).toInt * (s.reg .r1).toInt ∧
    ClearWritten s t [.r0, .r2, .r3] :=
  ⟨_, rfl, signedProduct_words (s.reg .r0) (s.reg .r1), s.finishClear_threeRegs (by simp) (by simp) (by simp) _ _ _⟩

/-! Division (R223 to R225). -/

theorem State.divideCycles_of_ne_zero {s : State} (h : s.reg .r1 ≠ 0#16) (n : Nat) : s.divideCycles n = some n := by
  rw [State.divideCycles, if_neg h]

theorem exec_divu {s : State} (h : s.reg .r1 ≠ 0#16) : ∃ t, exec .divu s = .next t ∧
    (t.reg .r2).toNat = (s.reg .r0).toNat / (s.reg .r1).toNat ∧
    (t.reg .r3).toNat = (s.reg .r0).toNat % (s.reg .r1).toNat ∧ ClearWritten s t [.r2, .r3] := by
  have hquotient : (s.reg .r0).toNat / (s.reg .r1).toNat < 2 ^ 16 := (Nat.div_le_self _ _).trans_lt (s.reg .r0).isLt
  have hremainder : (s.reg .r0).toNat % (s.reg .r1).toNat < 2 ^ 16 := (Nat.mod_le _ _).trans_lt (s.reg .r0).isLt
  refine ⟨_, by rw [exec, execDivu, if_neg h], ?_, ?_, s.finishClear_twoRegs (by simp) (by simp) _ _⟩
  · simpa using Nat.mod_eq_of_lt hquotient
  · simpa using Nat.mod_eq_of_lt hremainder

section SignedDivision
variable (d : Bool) (a : Int) {b : Int}

theorem signedQuotient_mul_add_signedRemainder (b : Int) : a = signedQuotient d a b * b + signedRemainder d a b := by
  cases d with
  | false => exact (Int.tdiv_mul_add_tmod a b).symm
  | true => exact (Int.ediv_mul_add_emod a b).symm

theorem natAbs_signedRemainder_lt (hb : b ≠ 0) : (signedRemainder d a b).natAbs < b.natAbs := by
  cases d with
  | false =>
    rw [signedRemainder, if_neg Bool.false_ne_true, Int.natAbs_tmod]
    exact Nat.mod_lt _ (Int.natAbs_pos.2 hb)
  | true =>
    have hnonneg := Int.emod_nonneg a hb
    have hlt := Int.emod_lt_abs a hb
    rw [Int.abs_eq_natAbs] at hlt
    rw [signedRemainder, if_pos rfl]
    omega

theorem natAbs_signedQuotient_le (b : Int) : (signedQuotient d a b).natAbs ≤ a.natAbs := by
  cases d with
  | false =>
    rw [signedQuotient, if_neg Bool.false_ne_true, Int.natAbs_tdiv]
    exact Nat.div_le_self _ _
  | true => exact Int.natAbs_ediv_le_natAbs a b

/-- With D = 0 the remainder is 0 or has the sign of the dividend (R225). -/
theorem signedRemainder_false_sign (b : Int) :
    signedRemainder false a b = 0 ∨ (signedRemainder false a b < 0 ↔ a < 0) := by
  rw [signedRemainder, if_neg Bool.false_ne_true]
  rcases lt_or_ge a 0 with hneg | hnonneg
  · have hopposite : 0 ≤ (-a).tmod b := Int.tmod_nonneg b (by omega)
    rw [Int.neg_tmod] at hopposite
    omega
  · have hsame : 0 ≤ a.tmod b := Int.tmod_nonneg b hnonneg
    omega

/-- Of two signed words only -32768 and -1 have a quotient that 16 signed bits do not hold (R231): were it 32768 for another
divisor, the dividend would be out of range too. -/
theorem signedQuotient_eq_overflow (ha : -2 ^ 15 ≤ a) (ha' : a < 2 ^ 15) (hb : b ≠ 0)
    (h : signedQuotient d a b = 32768) : a = -32768 ∧ b = -1 := by
  have hdivision := signedQuotient_mul_add_signedRemainder d a b
  have hremainder := natAbs_signedRemainder_lt d a hb
  rw [h] at hdivision
  omega

end SignedDivision

theorem toInt_range (v : Word) : -2 ^ 15 ≤ v.toInt ∧ v.toInt < 2 ^ 15 := ⟨BitVec.le_toInt v, BitVec.toInt_lt⟩

theorem toInt_ne_zero {v : Word} (h : v ≠ 0#16) : v.toInt ≠ 0 := fun hzero => h (BitVec.eq_of_toInt_eq hzero)

theorem toInt_ofInt_of_range {n : Int} (hlow : -2 ^ 15 ≤ n) (hhigh : n < 2 ^ 15) : (BitVec.ofInt 16 n).toInt = n :=
  BitVec.toInt_ofInt_eq_self (by decide) hlow hhigh

/-- DIVS by a divisor that is not 0: quotient and remainder fit their registers but for -32768 / -1 (R225, R231). -/
theorem exec_divs {s : State} (h : s.reg .r1 ≠ 0#16) : ∃ t, exec .divs s = .next t ∧
    (¬((s.reg .r0).toInt = -32768 ∧ (s.reg .r1).toInt = -1) →
      (t.reg .r2).toInt = signedQuotient (s.flag .d) (s.reg .r0).toInt (s.reg .r1).toInt ∧
      (t.reg .r3).toInt = signedRemainder (s.flag .d) (s.reg .r0).toInt (s.reg .r1).toInt) ∧
    (t.reg .r1).toNat = (s.reg .r1).toInt.natAbs ∧ ClearWritten s t [.r1, .r2, .r3] := by
  obtain ⟨hlow, hhigh⟩ := toInt_range (s.reg .r0)
  obtain ⟨hdivisor, hdivisor'⟩ := toInt_range (s.reg .r1)
  refine ⟨_, by rw [exec, execDivs, if_neg h], fun hfits => ?fits, ?divisor,
    s.finishClear_threeRegs (by simp) (by simp) (by simp) _ _ _⟩
  case divisor => simpa using Nat.mod_eq_of_lt (by omega : (s.reg .r1).toInt.natAbs < 2 ^ 16)
  case fits =>
    have hne := toInt_ne_zero h
    have hquotient := natAbs_signedQuotient_le (s.flag .d) (s.reg .r0).toInt (s.reg .r1).toInt
    have hremainder := natAbs_signedRemainder_lt (s.flag .d) (s.reg .r0).toInt hne
    have hoverflow : signedQuotient (s.flag .d) (s.reg .r0).toInt (s.reg .r1).toInt ≠ 32768 :=
      mt (signedQuotient_eq_overflow _ _ hlow hhigh hne) hfits
    simp only [State.finishClear_reg, State.setReg_reg, reduceCtorEq, if_true, if_false, hoverflow]
    exact ⟨toInt_ofInt_of_range (by omega) (by omega), toInt_ofInt_of_range (by omega) (by omega)⟩

/-! Division by zero (R226, R243). -/

/-- PS as a zero divide stacks it (R243, D10). -/
theorem get_divideByZeroPs (ps : Byte) (f : Flag) :
    PS.get (if Config.divZeroClearsFlags then PS.clearArith ps else ps) f =
      if Config.divZeroClearsFlags = true ∧ f ∈ [Flag.n, .z, .v, .x, .c] then false else PS.get ps f := by
  by_cases hclears : Config.divZeroClearsFlags = true
  · rw [if_pos hclears, PS.get_clearArith]
    cases f <;> simp [hclears]
  · simp [hclears]

/-- The trap entry of a zero divide, from the state itself: writing PS first changes nothing else of it. -/
theorem State.raiseDivideByZero_entered (s : State) :
    TrapEntered s s.raiseDivideByZero (if Config.divZeroClearsFlags then PS.clearArith s.ps else s.ps)
        (BitVec.ofNat 16 (s.pc.toNat + 1)) Config.divZeroVector ∧
      s.raiseDivideByZero.prefetch = s.prefetch ∧ PlatformKept s s.raiseDivideByZero := by
  obtain ⟨hentered, hplatform, hprefetch⟩ :=
    (s.setPs (if Config.divZeroClearsFlags then PS.clearArith s.ps else s.ps)).trapEntry_entered (s.nextPc 1)
      Config.divZeroVector
  rw [← s.nextPc_eq_ofNat]
  exact ⟨hentered, hprefetch, hplatform⟩

theorem divide_zero {s : State} (h : s.reg .r1 = 0#16) {i : Instr} (hi : i ∈ [Instr.divu, Instr.divs]) :
    Costs s i 1 7 ∧ exec i s = .next s.raiseDivideByZero := by
  have hcycles (n : Nat) : s.divideCycles n = some 7 := by rw [State.divideCycles, if_pos h]
  simp only [List.mem_cons, List.not_mem_nil, or_false] at hi
  rcases hi with rfl | rfl
  · exact ⟨⟨rfl, hcycles 18⟩, by rw [exec, execDivu, if_pos h]⟩
  · exact ⟨⟨rfl, hcycles 19⟩, by rw [exec, execDivs, if_pos h]⟩

/-! The square root (R227). -/

/-- The greatest number whose square is not above `n`. -/
def IsRoot (n r : Nat) : Prop := r * r ≤ n ∧ n < (r + 1) * (r + 1)

/-- The digits below `2 ^ k` find the root if it is less than `2 ^ k` above `r`. -/
theorem isqrtDigits_isRoot {n : Nat} (k r : Nat) (hlow : r * r ≤ n) (hhigh : n < (r + 2 ^ k) * (r + 2 ^ k)) :
    IsRoot n (isqrtDigits n k r) := by
  induction k generalizing r with
  | zero => exact ⟨hlow, hhigh⟩
  | succ k ih =>
    have hdigit : r + 2 ^ (k + 1) = r + 2 ^ k + 2 ^ k := by rw [pow_succ]; omega
    rw [isqrtDigits]
    split
    next hkept => exact ih _ hkept (hdigit ▸ hhigh)
    next hdropped => exact ih r hlow (not_le.1 hdropped)

/-- Eight digits are enough for a word. -/
theorem isqrt_isRoot (v : Word) : IsRoot v.toNat (isqrt v.toNat) :=
  isqrtDigits_isRoot 8 0 (Nat.zero_le _) (by simpa using v.isLt)

/-- SQRT of a word with bit 15 clear (R227). -/
theorem execSqrt_root {s t : State} (h : exec .sqrt s = .next t) (hlow : (s.reg .r1).toNat < 32768) :
    (t.reg .r0).toNat = isqrt (s.reg .r1).toNat ∧
      (t.reg .r1).toNat = (s.reg .r1).toNat - isqrt (s.reg .r1).toNat * isqrt (s.reg .r1).toNat := by
  obtain ⟨hsquare, -⟩ := isqrt_isRoot (s.reg .r1)
  have hroot : isqrt (s.reg .r1).toNat < 2 ^ 16 := ((Nat.le_mul_self _).trans hsquare).trans_lt (s.reg .r1).isLt
  have hmsb : (s.reg .r1).msb = false := by rw [BitVec.msb_eq_decide]; simpa using hlow
  cases h
  simp only [State.finishClear_reg, State.setReg_reg, reduceCtorEq, if_true, if_false, hmsb, Bool.false_eq_true,
    BitVec.toNat_ofNat]
  exact ⟨Nat.mod_eq_of_lt hroot, Nat.mod_eq_of_lt ((Nat.sub_le _ _).trans_lt (s.reg .r1).isLt)⟩

theorem exec_sqrt (s : State) : ∃ t, exec .sqrt s = .next t ∧ t.reg .r3 = 0#16 ∧ ClearWritten s t [.r0, .r1, .r3] :=
  ⟨_, rfl, by simp, s.finishClear_threeRegs (by simp) (by simp) (by simp) _ _ _⟩

/-! PS as a whole (R228, R229). -/

/-- An instruction of two bytes that writes PS and nothing else. -/
theorem exec_of_setPs {s : State} {i : Instr} {p : Byte} (h : exec i s = .next ((s.setPs p).advance 2)) :
    ∃ t, exec i s = .next t ∧ (∀ f, t.flag f = PS.get p f) ∧ FallsThrough s t 2 ∧ RegsKept s t [] ∧ t.sp = s.sp ∧
      NoStore s t := by
  obtain ⟨hregs, -, hsp, hstore⟩ := (((Frame.refl s _).setPs (PS.all_keptBut s.ps p)).advance 2).onlyRegsAndFlags (R := [])
  exact ⟨_, h, fun _ => rfl, fallsThrough_of_pc rfl, hregs, hsp, hstore⟩

/-! The statements. -/

/-- Settles O51: the two exact products, each with the ending that clears the arithmetic flags. -/
theorem multiply : Obligations.Multiply := fun s =>
  ⟨oneByte_of_encode rfl rfl rfl, exec_mulu s, oneByte_of_encode rfl rfl rfl, exec_muls s⟩

/-- Settles O52: the quotient and the remainder of numbers. -/
theorem divideUnsigned : Obligations.DivideUnsigned := by
  intro s h
  obtain ⟨t, ht, hquotient, hremainder, hwritten⟩ := exec_divu h
  have hpos : 0 < (s.reg .r1).toNat := Nat.pos_of_ne_zero fun hzero => h (BitVec.eq_of_toNat_eq hzero)
  refine ⟨oneByte_of_encode rfl rfl (State.divideCycles_of_ne_zero h 18), t, ht, ?division, ?bound, hwritten⟩
  case division => rw [hquotient, hremainder, Nat.div_add_mod']
  case bound => rw [hremainder]; exact Nat.mod_lt _ hpos

/-- Settles O53: the quotient and the remainder of integers that the division mode selects. -/
theorem divideSigned : Obligations.DivideSigned := by
  intro s h
  obtain ⟨t, ht, hfits, hdivisor, hwritten⟩ := exec_divs h
  have hne := toInt_ne_zero h
  refine ⟨oneByte_of_encode rfl rfl (State.divideCycles_of_ne_zero h 19), t, ht, fun hrange => ?_, hdivisor, hwritten⟩
  obtain ⟨hquotient, hremainder⟩ := hfits hrange
  rw [hquotient, hremainder]
  refine ⟨signedQuotient_mul_add_signedRemainder _ _ _, natAbs_signedRemainder_lt _ _ hne, fun hd => ?truncating,
    fun hd => ?euclidean⟩
  case truncating => rw [hd]; exact signedRemainder_false_sign _ _
  case euclidean => rw [hd]; exact Int.emod_nonneg _ hne

/-- Settles O54: both divides take the one trap entry. -/
theorem divideByZero : Obligations.DivideByZero := by
  intro s h i hi
  obtain ⟨hcosts, hexec⟩ := divide_zero h hi
  exact ⟨hcosts, _, _, hexec, get_divideByZeroPs s.ps, s.raiseDivideByZero_entered⟩

/-- Settles O55: the digits of the root, and the ending of the other instructions here. -/
theorem squareRoot : Obligations.SquareRoot := by
  intro s
  obtain ⟨t, ht, hzero, hwritten⟩ := exec_sqrt s
  refine ⟨oneByte_of_encode rfl rfl rfl, t, ht, fun hlow => ?_, hzero, hwritten⟩
  obtain ⟨hroot, hleft⟩ := execSqrt_root ht hlow
  obtain ⟨hsquare, hnext⟩ := isqrt_isRoot (s.reg .r1)
  rw [hroot]
  exact ⟨hsquare, hnext, hleft⟩

/-- Settles O56: a flag of a bitwise result is that of the two flags. -/
theorem psImmediate : Obligations.PsImmediate := by
  intro s imm
  refine ⟨twoBytes_of_encode rfl rfl rfl, ?and, twoBytes_of_encode rfl rfl rfl, ?or⟩
  case and =>
    obtain ⟨t, ht, hflag, hkept⟩ := exec_of_setPs (s := s) (i := .andPs imm) rfl
    exact ⟨t, ht, fun f => (hflag f).trans BitVec.getLsbD_and, hkept⟩
  case or =>
    obtain ⟨t, ht, hflag, hkept⟩ := exec_of_setPs (s := s) (i := .orPs imm) rfl
    exact ⟨t, ht, fun f => (hflag f).trans BitVec.getLsbD_or, hkept⟩

end Sys2Proof.Machine
end

section
/-! SUPPORT. Exceptions (R241, R245, R249): an accepted request is one trap entry, and where the frame is in ram a return
undoes the entry it belongs to, RETI that of a trap and RET that of a call. -/

namespace Sys2Proof.Machine

/-! Accepting a request (R245). -/

theorem step_takes_interrupt {s : State} (hb : s.boundary = .irq) (hi : s.flag .i = true) :
    step s = .next s.takeInterrupt := by
  simp [step, State.interrupted, hb, hi]

/-- Settles O5: past the boundary, taking the request is trap entry at the pc, and passing it changes nothing that trap
entry reads. -/
theorem interruptAccepted : Obligations.InterruptAccepted := by
  intro s rest hinputs hi
  have hb : s.boundary = .irq := by rw [State.boundary, hinputs]
  obtain ⟨hentered, ⟨hmap, hrest, hepoch⟩, hprefetch⟩ := s.passBoundary.trapEntry_entered s.pc Config.extIntVector
  rw [State.passBoundary_inputs, hinputs, List.tail_cons] at hrest
  exact ⟨_, step_takes_interrupt hb hi, hentered, hrest, hmap, hepoch, hprefetch⟩

/-! Returning (R207, R208, R249). -/

theorem RegsKept.trans {s t u : State} {R : List Reg} (h : RegsKept s t R) (h' : RegsKept t u R) : RegsKept s u R :=
  fun r hr => (h' r hr).trans (h r hr)

/-- PS is kept as a byte where every flag is. -/
theorem FlagsKept.ps_eq {s t : State} (h : FlagsKept s t []) : t.ps = s.ps := PS.ext _ _ fun f => h f List.not_mem_nil

/-- The return from a trap takes PS, the pc and SP from the three bytes that trap entry stored, so that it restores what
was stacked, whichever trap it was (R249). -/
theorem TrapEntered.trapReturn {s t : State} {ps : Byte} {ret vec : Word} (h : TrapEntered s t ps ret vec)
    (hflags : s.region (s.sp - 3#16) = .ram) (hlo : s.region (s.sp - 2#16) = .ram) (hhi : s.region (s.sp - 1#16) = .ram) :
    t.trapReturn.pc = ret ∧ t.trapReturn.ps = ps ∧ t.trapReturn.sp = s.sp ∧ RegsKept s t.trapReturn [] := by
  obtain ⟨-, hsp, -, -, hregs, -, hps, hlow, hhigh, -⟩ := h
  obtain ⟨hps', hpc', hsp', hregs', -⟩ := t.trapReturn_spec
  have hlowAddr : s.sp - 3#16 + 1#16 = s.sp - 2#16 := by bv_omega
  have hhighAddr : s.sp - 3#16 + 2#16 = s.sp - 1#16 := by bv_omega
  refine ⟨BitVec.eq_of_toNat_eq ?pc, BitVec.eq_of_toNat_eq ?ps, ?sp, hregs.trans hregs'⟩
  case pc =>
    rw [hpc', hsp, hlowAddr, hhighAddr, (hlow .data).1 hlo, (hhigh .data).1 hhi]
    omega
  case ps => rw [hps', hsp, (hps .data).1 hflags]
  case sp => rw [hsp', hsp, BitVec.sub_add_cancel]

/-- RET takes the pc from the word that the call pushed, whatever the target and the length of the call (R207). -/
theorem exec_ret_of_call {s : State} {i : Instr} {target : Word} {len : Nat} (h : exec i s = .next (s.call target len))
    (hlo : s.region (s.sp - 2#16) = .ram) (hhi : s.region (s.sp - 1#16) = .ram) :
    ∃ t u, exec i s = .next t ∧ exec .ret t = .next u ∧ u.pc = BitVec.ofNat 16 (s.pc.toNat + len) ∧ u.ps = s.ps ∧
      u.sp = s.sp ∧ RegsKept s u [] := by
  obtain ⟨t, ht, -, hsp, hstored, hregs, hflags, -⟩ := exec_of_call h
  obtain ⟨u, hu, hpc, hsp', hframe⟩ := exec_ret t
  have hnext : s.sp - 2#16 + 1#16 = s.sp - 1#16 := by bv_omega
  refine ⟨t, u, ht, hu, ?pc, ?ps, ?sp, hregs.trans hframe.regs⟩
  case pc => rw [hpc, State.topWord, hsp, hstored.readWord hlo (hnext ▸ hhi)]
  case ps => rw [FlagsKept.ps_eq hframe.flags, FlagsKept.ps_eq hflags]
  case sp => rw [hsp', hsp, BitVec.sub_add_cancel]

/-- Settles O50: RETI after the trap entry of TRAP, and RET after the one call that both forms of JSR are. -/
theorem returnAfterEntry : Obligations.ReturnAfterEntry := by
  intro s addr hlo hhi
  refine ⟨fun hflags => ?trap, exec_ret_of_call rfl hlo hhi, exec_ret_of_call rfl hlo hhi⟩
  case trap =>
    obtain ⟨-, t, ht, hentered, -⟩ := trapInstruction s
    exact ⟨t, _, ht, rfl, hentered.trapReturn hflags hlo hhi⟩

end Sys2Proof.Machine
end

section
/-! SUPPORT. Reset and the end of a run (R270, R271, R276): the state right after reset, what a reset at a boundary leaves,
and the control transfers to themselves. -/

namespace Sys2Proof.Machine

/-! The state after reset. -/

/-- No entry of the empty map covers an address, so every address is ram (log 6). -/
theorem State.reset_region (a : Word) : State.reset.region a = .ram := rfl

/-- Ram with nothing listed reads as unlisted everywhere (log 5). -/
theorem State.reset_readByte (k : Access) (a : Word) : State.reset.readByte k a = Memory.unlisted := by
  rw [State.readByte, State.reset_region]
  rfl

/-- Settles O1: each register and each flag by name; memory and its map are empty. -/
theorem stateAfterReset : Obligations.StateAfterReset :=
  ⟨fun r => by cases r <;> rfl, rfl, rfl, fun _ => BitVec.getLsbD_zero, State.reset_region, State.reset_readByte,
    rfl, rfl, rfl⟩

/-! The bytes that the host loads (R270). -/

theorem loadBytes_cons (m : Memory) (a : Word) (v : Byte) (load : List (Word × Byte)) :
    loadBytes m ((a, v) :: load) = loadBytes (Memory.write m a.toNat v) load := rfl

theorem loadBytes_append (m : Memory) (before after : List (Word × Byte)) :
    loadBytes m (before ++ after) = loadBytes (loadBytes m before) after := List.foldl_append

/-- An address that the host does not load keeps its byte. -/
theorem loadBytes_read_of_not_mem {load : List (Word × Byte)} {a : Word} (m : Memory) (h : ∀ v, (a, v) ∉ load) :
    Memory.read (loadBytes m load) a.toNat = Memory.read m a.toNat := by
  induction load generalizing m with
  | nil => rfl
  | cons cell rest ih =>
    obtain ⟨b, w⟩ := cell
    have hrest : ∀ v, (a, v) ∉ rest := fun v hv => h v (List.mem_cons_of_mem _ hv)
    have hne : a.toNat ≠ b.toNat := fun he => h w (by rw [BitVec.eq_of_toNat_eq he]; exact List.mem_cons_self)
    rw [loadBytes_cons, ih _ hrest, Memory.read_write, if_neg hne]

/-- Of the bytes loaded at one address the last one stands: what comes after it is loaded elsewhere. -/
theorem loadBytes_read_last {after : List (Word × Byte)} {a : Word} (m : Memory) (v : Byte)
    (before : List (Word × Byte)) (h : ∀ w, (a, w) ∉ after) :
    Memory.read (loadBytes m (before ++ (a, v) :: after)) a.toNat = v := by
  rw [loadBytes_append, loadBytes_cons, loadBytes_read_of_not_mem _ h, Memory.read_write, if_pos rfl]

/-! A reset at a boundary (R247, R271). -/

theorem step_takes_reset {s : State} {regs : ResetState} {load : List (Word × Byte)} (h : s.boundary = .reset regs load) :
    step s = .next (s.takeReset regs load) := by
  rw [step, h]

theorem State.takeReset_mem (s : State) (regs : ResetState) (load : List (Word × Byte)) :
    (s.takeReset regs load).mem = loadBytes s.mem load := rfl

theorem State.takeReset_inputs (s : State) (regs : ResetState) (load : List (Word × Byte)) :
    (s.takeReset regs load).inputs = s.inputs.tail := rfl

/-- Settles O6: the registers are those of the reset, and memory is what loading leaves of it. -/
theorem resetAtBoundary : Obligations.ResetAtBoundary := by
  intro s regs load rest hinputs
  have hb : s.boundary = .reset regs load := by rw [State.boundary, hinputs]
  have hrest : (s.takeReset regs load).inputs = rest := by rw [State.takeReset_inputs, hinputs, List.tail_cons]
  refine ⟨_, step_takes_reset hb, rfl, rfl, rfl, rfl, rfl, rfl, rfl, hrest, rfl, rfl, rfl, ?kept, ?loaded⟩
  case kept =>
    intro a ha
    rw [State.takeReset_mem, loadBytes_read_of_not_mem s.mem ha]
  case loaded =>
    rintro a v before after rfl hlast
    rw [State.takeReset_mem, loadBytes_read_last s.mem v before hlast]

/-! Control transfers to themselves (R276). -/

/-- What names a condition and a displacement runs as the branch by them (R202). -/
theorem exec_of_branchParts {i : Instr} {c : Cond} {d : Byte} (h : branchParts i = some (c, d)) (s : State) :
    exec i s = .next (s.branch c d) := by
  cases i with
  | buc | bus | bhi | bls | bcc | bcs | bne | beq | bvc | bvs | bpl | bmi | bge | blt | bgt | ble => cases h; rfl
  | _ => cases h

/-- A displacement of -2 leads back over the branch's own two bytes. -/
theorem State.branchTarget_minus_two (s : State) : s.branchTarget 0xFE#8 = s.pc := by
  have hback : 2#16 + sext8 0xFE#8 = 0#16 := by decide
  rw [State.branchTarget, State.nextPc, BitVec.add_assoc, hback, BitVec.add_zero]

theorem State.branch_of_holds {s : State} {c : Cond} (h : s.holds c = true) (d : Byte) :
    s.branch c d = s.setPc (s.branchTarget d) := if_pos h

/-- At the end of a run the next instruction is a JMP to its own address or a taken branch with displacement -2. -/
theorem State.atEndOfRun_cases {s : State} (h : s.atEndOfRun = true) :
    s.fetched = .jmpAbs s.pc ∨ ∃ c, branchParts s.fetched = some (c, 0xFE#8) ∧ s.holds c = true := by
  unfold State.atEndOfRun at h
  split at h
  next addr hjmp => exact .inl (by rw [hjmp, eq_of_beq h])
  next =>
    split at h
    next c d hparts =>
      rw [Bool.and_eq_true, beq_iff_eq] at h
      obtain ⟨hholds, rfl⟩ := h
      exact .inr ⟨c, hparts, hholds⟩
    next => cases h

/-- The instruction at the end of a run writes the pc that it has. -/
theorem exec_at_end_of_run {s : State} (h : s.atEndOfRun = true) :
    exec s.fetched s.passBoundary = .next (s.passBoundary.setPc s.pc) := by
  rcases State.atEndOfRun_cases h with hjmp | ⟨c, hparts, hholds⟩
  · rw [hjmp]; rfl
  · have htaken : s.passBoundary.holds c = true := hholds
    rw [exec_of_branchParts hparts, State.branch_of_holds htaken, State.branchTarget_minus_two, State.passBoundary_pc]

/-- Settles O11: passing the boundary, writing the pc that it has and the next draw epoch change nothing named. -/
theorem endOfRunChangesNothing : Obligations.EndOfRunChangesNothing := by
  intro s hquiet hend
  refine ⟨(s.passBoundary.setPc s.pc).nextEpoch, ?steps, rfl, fun _ _ => rfl, rfl, rfl, rfl, rfl, rfl⟩
  case steps => rw [step_runs (.inl hquiet), exec_at_end_of_run hend, endStep]

end Sys2Proof.Machine
end

section
/-! SUPPORT. The bounds of the cycle table (R185, R280, R281): a number that is given is a constant of the table, or that of
a shift, a branch or a divide. -/

namespace Sys2Proof.Machine

/-- The bounds of the cycle table, for whatever number is given (R281). -/
def CyclesInRange (cycles : Option Nat) : Prop := ∀ n, cycles = some n → 1 ≤ n ∧ n ≤ 20

theorem cyclesInRange_none : CyclesInRange none := fun _ h => by cases h

theorem cyclesInRange_some {n : Nat} (hlow : 1 ≤ n) (hhigh : n ≤ 20) : CyclesInRange (some n) :=
  fun _ h => Option.some.inj h ▸ ⟨hlow, hhigh⟩

theorem shiftCycles_some (n : Int) : shiftCycles (some n) = some (4 + n.natAbs) := rfl

/-- At most 16 places are moved (R170). -/
theorem shiftCycles_inRange {n : Int} (h : n.natAbs ≤ 16) : CyclesInRange (shiftCycles (some n)) := by
  rw [shiftCycles_some]
  exact cyclesInRange_some (by omega) (by omega)

theorem natAbs_signed5_le (n : Nat) : (signed5 n).natAbs ≤ 16 := by
  have hrange := signed5_range n
  omega

theorem shiftCycles_countImm_inRange (c : BitVec 5) : CyclesInRange (shiftCycles (some (countImm c))) := by
  rw [countImm_eq]
  exact shiftCycles_inRange (natAbs_signed5_le _)

section Bounds
variable (s : State)

theorem shiftCycles_countLeft_inRange (rp : Reg) : CyclesInRange (shiftCycles (some (s.countLeft rp))) := by
  rw [s.countLeft_eq]
  exact shiftCycles_inRange (natAbs_signed5_le _)

/-- No number is given for the count field 10000 of an xxR form (R184). -/
theorem shiftCycles_countRight_inRange (rp : Reg) : CyclesInRange (shiftCycles (s.countRight rp)) := by
  by_cases h : signed5 (s.reg rp).toNat = -16
  · rw [s.countRight_eq_none rp ((signed5_eq_neg_sixteen_iff _).1 h)]
    exact cyclesInRange_none
  · rw [s.countRight_eq_some rp h]
    exact shiftCycles_inRange ((Int.natAbs_neg _).trans_le (natAbs_signed5_le _))

theorem State.branchCycles_inRange (c : Cond) : CyclesInRange (s.branchCycles c) := by
  rw [State.branchCycles]
  split <;> exact cyclesInRange_some (by decide) (by decide)

theorem State.divideCycles_inRange {n : Nat} (hlow : 1 ≤ n) (hhigh : n ≤ 20) : CyclesInRange (s.divideCycles n) := by
  rw [State.divideCycles]
  split
  · exact cyclesInRange_some (by decide) (by decide)
  · exact cyclesInRange_some hlow hhigh

/-- The instructions by the part of the table that gives their number. -/
theorem State.cycles_inRange (i : Instr) : CyclesInRange (s.cycles i) := by
  cases i with
  | lslImm | aslImm | rolImm | roxlImm => exact shiftCycles_countImm_inRange _
  | lslReg | aslReg | rolReg | roxlReg | lslWt | aslWt | rolWt | roxlWt => exact shiftCycles_countLeft_inRange s _
  | lsrReg | asrReg | rorReg | roxrReg | lsrWt | asrWt | rorWt | roxrWt => exact shiftCycles_countRight_inRange s _
  | buc | bus | bhi | bls | bcc | bcs | bne | beq | bvc | bvs | bpl | bmi | bge | blt | bgt | ble =>
    exact s.branchCycles_inRange _
  | divu | divs => exact s.divideCycles_inRange (by decide) (by decide)
  | shReserved | bitImmReserved | bitRegReserved => exact cyclesInRange_none
  | _ => exact cyclesInRange_some (by decide) (by decide)

end Bounds

/-- Settles O12: every part of the table stays within the bounds. -/
theorem cyclesAtMostTwenty : Obligations.CyclesAtMostTwenty := fun s i n h => s.cycles_inRange i n h

end Sys2Proof.Machine
end
